-- ==== Sys2Proof/Word.lean ====
section
/-! DEFINITION. The word types of the block: a byte of a frame (R9), the 16-bit and 32-bit registers of
`10_state.md` R30, and the 64-bit command word of `30_encoding.md` R100. Every value of the block is an
unsigned bit vector of its stated width (R9). -/

namespace Sys2Proof

/-- A byte of a frame or a buffer (R9: "A byte is 8 bits"). -/
abbrev Byte := BitVec 8

/-- A 16-bit value: the CRC accumulator, a Modbus register, a 16-bit measurement (R30). -/
abbrev Half := BitVec 16

/-- A 32-bit measurement (R30), and what a host read returns, zero-extended. -/
abbrev Word := BitVec 32

/-- A command word (R100: "Every command is one 64-bit command word"). -/
abbrev CmdWord := BitVec 64

end Sys2Proof
end

