-- ==== Sys2Proof/Syntax.lean ====
section
/-! DEFINITION. The commands of the block, one constructor per row of `spec/opcode_table.json`
(`30_encoding.md` R108), the two ways a word can be illegal (R109), and the pseudo-commands of R111. -/

namespace Sys2Proof

/-- The buffer select `S` of format S (R72, R103): 0 is `TX`, 1 is `RX`. -/
inductive Buf where
  | tx
  | rx
  deriving DecidableEq, Repr

/-- The thirteen commands. Every operand is an unsigned field "taken as is" (R107), so its type is its
field's width and every term is a legal command. -/
inductive Instr where
  /-- `NOP` (R154). -/
  | nop
  /-- `CRC_INIT` (R180). -/
  | crcInit
  /-- `CRC_FEED b` (R181). -/
  | crcFeed (b : Byte)
  /-- `CRC_BUF buf, n` (R182). -/
  | crcBuf (buf : Buf) (n : Byte)
  /-- `CRC_VERIFY buf, n` (R183). -/
  | crcVerify (buf : Buf) (n : Byte)
  /-- `CRC_APPEND buf, n` (R184). -/
  | crcAppend (buf : Buf) (n : Byte)
  /-- `BUILD_REG addr, func, reg, val` (R200). -/
  | buildReg (addr func : Byte) (reg val : Half)
  /-- `BUILD_RESET addr` (R201). -/
  | buildReset (addr : Byte)
  /-- `RX_CLEAR` (R202). -/
  | rxClear
  /-- `RX_PUSH b` (R203). -/
  | rxPush (b : Byte)
  /-- `PARSE n` (R204). -/
  | parse (n : Byte)
  /-- `ECHO_CHECK` (R205). -/
  | echoCheck
  /-- `DECODE` (R250). -/
  | decode
  deriving DecidableEq, Repr

/-- The two kinds of illegal command word (R109), by name. Both execute as R153 says. -/
inductive DecodeError where
  /-- `OP` is not in the opcode map (R108). -/
  | undefinedOpcode (op : Byte)
  /-- `OP` is in the map, and a bit its format requires to be zero is not. -/
  | reservedBits (mnemonic : String)
  deriving DecidableEq, Repr

/-- The pseudo-commands of R111. They have no encoding of their own; their meaning is that of their
expansion (`Sys2Proof/Machine/HostProgram.lean`). -/
inductive PseudoCmd where
  /-- `RX_LOAD b0, ..., bk`. -/
  | rxLoad (bytes : List Byte)
  /-- `CRC_BYTES b0, ..., bk`. -/
  | crcBytes (bytes : List Byte)
  /-- `READ_BLOCK addr`. -/
  | readBlock (addr : Byte)
  /-- `WRITE_REG addr, reg, val`. -/
  | writeReg (addr : Byte) (reg val : Half)
  /-- `SET_ADDR_FRAME addr, new`. -/
  | setAddrFrame (addr new : Byte)
  /-- `VALIDATE_ECHO n`. -/
  | validateEcho (n : Byte)
  deriving DecidableEq, Repr

end Sys2Proof
end

