-- ==== Sys2Proof/WellFormed.lean ====
section
/-! DEFINITION. When a command WORD is well formed: its `OP` is in the opcode map and every bit its
format requires to be zero is zero (`30_encoding.md` R101 to R109, `40_common.md` R153). The check is the
opcode table itself, match and mask as `spec/opcode_table.json` gives them; it shares nothing with the
decoder. A decoded command needs no check of its own: R107 puts no validation on any operand, and the
operand types of `Instr` are exactly the field widths. -/

namespace Sys2Proof

/-- A row of the opcode table: a word belongs to the row when its bits under the mask are the pattern. -/
structure OpRow where
  mnemonic : String
  pattern  : CmdWord
  mask     : CmdWord
  deriving DecidableEq, Repr

/-- The word belongs to the row. -/
def OpRow.fits (r : OpRow) (w : CmdWord) : Bool := w &&& r.mask == r.pattern

/-- The opcode table (R108). -/
def opTable : List OpRow :=
  [ ⟨"NOP",         0x0000000000000000#64, 0xFFFFFFFFFFFFFFFF#64⟩,
    ⟨"CRC_INIT",    0x0100000000000000#64, 0xFFFFFFFFFFFFFFFF#64⟩,
    ⟨"CRC_FEED",    0x0200000000000000#64, 0xFFFFFFFFFFFFFF00#64⟩,
    ⟨"CRC_BUF",     0x0300000000000000#64, 0xFFFFFFFFFFFFFE00#64⟩,
    ⟨"CRC_VERIFY",  0x0400000000000000#64, 0xFFFFFFFFFFFFFE00#64⟩,
    ⟨"CRC_APPEND",  0x0500000000000000#64, 0xFFFFFFFFFFFFFE00#64⟩,
    ⟨"BUILD_REG",   0x1000000000000000#64, 0xFFFF000000000000#64⟩,
    ⟨"BUILD_RESET", 0x1100000000000000#64, 0xFFFF00FFFFFFFFFF#64⟩,
    ⟨"RX_CLEAR",    0x2000000000000000#64, 0xFFFFFFFFFFFFFFFF#64⟩,
    ⟨"RX_PUSH",     0x2100000000000000#64, 0xFFFFFFFFFFFFFF00#64⟩,
    ⟨"PARSE",       0x2200000000000000#64, 0xFFFFFFFFFFFFFF00#64⟩,
    ⟨"ECHO_CHECK",  0x2300000000000000#64, 0xFFFFFFFFFFFFFFFF#64⟩,
    ⟨"DECODE",      0x3000000000000000#64, 0xFFFFFFFFFFFFFFFF#64⟩ ]

/-- The word is a legal command word: it belongs to a row of the opcode table (R109, R153). -/
def wordWellFormed (w : CmdWord) : Bool := opTable.any (fun r => r.fits w)

/-- The mnemonic of a command, as the opcode table spells it. -/
def Instr.mnemonic : Instr → String
  | .nop              => "NOP"
  | .crcInit          => "CRC_INIT"
  | .crcFeed _        => "CRC_FEED"
  | .crcBuf _ _       => "CRC_BUF"
  | .crcVerify _ _    => "CRC_VERIFY"
  | .crcAppend _ _    => "CRC_APPEND"
  | .buildReg _ _ _ _ => "BUILD_REG"
  | .buildReset _     => "BUILD_RESET"
  | .rxClear          => "RX_CLEAR"
  | .rxPush _         => "RX_PUSH"
  | .parse _          => "PARSE"
  | .echoCheck        => "ECHO_CHECK"
  | .decode           => "DECODE"

end Sys2Proof
end

