-- ==== Sys2Proof/Decode.lean ====
section
/-! DEFINITION. The decoder, total on every 64-bit word and rejecting by name (`30_encoding.md` R100 to
R109), the encoder written from the same formats, and the two functions that place an instruction given
by its opcode-table bits. -/

namespace Sys2Proof

/-- `OP = w[63:56]` (R100). -/
def opField (w : CmdWord) : Byte := w.extractLsb' 56 8

/-- Format N (R101): `w[55:0]` must be zero. -/
def formatN (mnemonic : String) (i : Instr) (w : CmdWord) : Except DecodeError Instr :=
  if w.extractLsb' 0 56 = 0 then .ok i else .error (.reservedBits mnemonic)

/-- Formats B and E (R102, R106): the byte is `w[7:0]`, and `w[55:8]` must be zero. -/
def formatB (mnemonic : String) (i : Byte → Instr) (w : CmdWord) : Except DecodeError Instr :=
  if w.extractLsb' 8 48 = 0 then .ok (i (w.extractLsb' 0 8)) else .error (.reservedBits mnemonic)

/-- The buffer that the select bit names (R72). -/
def bufOfBit (s : BitVec 1) : Buf := if s = 0 then .tx else .rx

/-- Format S (R103): `S = w[8]`, `N = w[7:0]`, and `w[55:9]` must be zero. -/
def formatS (mnemonic : String) (i : Buf → Byte → Instr) (w : CmdWord) : Except DecodeError Instr :=
  if w.extractLsb' 9 47 = 0 then .ok (i (bufOfBit (w.extractLsb' 8 1)) (w.extractLsb' 0 8))
  else .error (.reservedBits mnemonic)

/-- Format F (R104): `w[55:48]` must be zero; `ADDR`, `FUNC`, `REG` and `VAL` fill `w[47:0]`. -/
def formatF (mnemonic : String) (i : Byte → Byte → Half → Half → Instr) (w : CmdWord) :
    Except DecodeError Instr :=
  if w.extractLsb' 48 8 = 0 then
    .ok (i (w.extractLsb' 40 8) (w.extractLsb' 32 8) (w.extractLsb' 16 16) (w.extractLsb' 0 16))
  else .error (.reservedBits mnemonic)

/-- Format A (R105): `ADDR = w[47:40]`; `w[55:48]` and `w[39:0]` must be zero. -/
def formatA (mnemonic : String) (i : Byte → Instr) (w : CmdWord) : Except DecodeError Instr :=
  if w.extractLsb' 48 8 = 0 ∧ w.extractLsb' 0 40 = 0 then .ok (i (w.extractLsb' 40 8))
  else .error (.reservedBits mnemonic)

/-- The opcode map (R108). -/
def decode (w : CmdWord) : Except DecodeError Instr :=
  match opField w with
  | 0x00#8 => formatN "NOP" .nop w
  | 0x01#8 => formatN "CRC_INIT" .crcInit w
  | 0x02#8 => formatB "CRC_FEED" .crcFeed w
  | 0x03#8 => formatS "CRC_BUF" .crcBuf w
  | 0x04#8 => formatS "CRC_VERIFY" .crcVerify w
  | 0x05#8 => formatS "CRC_APPEND" .crcAppend w
  | 0x10#8 => formatF "BUILD_REG" .buildReg w
  | 0x11#8 => formatA "BUILD_RESET" .buildReset w
  | 0x20#8 => formatN "RX_CLEAR" .rxClear w
  | 0x21#8 => formatB "RX_PUSH" .rxPush w
  | 0x22#8 => formatB "PARSE" .parse w
  | 0x23#8 => formatN "ECHO_CHECK" .echoCheck w
  | 0x30#8 => formatN "DECODE" .decode w
  | op     => .error (.undefinedOpcode op)

/-- The select bit of a buffer (R72). -/
def bitOfBuf : Buf → BitVec 1
  | .tx => 0
  | .rx => 1

/-- Format N, written out field by field. -/
def encodeN (op : Byte) : CmdWord := op ++ 0#56

/-- Formats B and E. -/
def encodeB (op b : Byte) : CmdWord := op ++ 0#48 ++ b

/-- Format S. -/
def encodeS (op : Byte) (buf : Buf) (n : Byte) : CmdWord := op ++ 0#47 ++ bitOfBuf buf ++ n

/-- Format F. -/
def encodeF (op addr func : Byte) (reg val : Half) : CmdWord := op ++ 0#8 ++ addr ++ func ++ reg ++ val

/-- Format A. -/
def encodeA (op addr : Byte) : CmdWord := op ++ 0#8 ++ addr ++ 0#40

/-- The word of a command (R101 to R108). -/
def encode : Instr → CmdWord
  | .nop                         => encodeN 0x00
  | .crcInit                     => encodeN 0x01
  | .crcFeed b                   => encodeB 0x02 b
  | .crcBuf buf n                => encodeS 0x03 buf n
  | .crcVerify buf n             => encodeS 0x04 buf n
  | .crcAppend buf n             => encodeS 0x05 buf n
  | .buildReg addr func reg val  => encodeF 0x10 addr func reg val
  | .buildReset addr             => encodeA 0x11 addr
  | .rxClear                     => encodeN 0x20
  | .rxPush b                    => encodeB 0x21 b
  | .parse n                     => encodeB 0x22 n
  | .echoCheck                   => encodeN 0x23
  | .decode                      => encodeN 0x30

/-- The command word whose bits are `w`, numbered as `spec/opcode_table.json` numbers them, with every
bit from `nbits` up zero. A command word arrives whole on the command port (R85, R100), so no byte order
enters (log entry 13). -/
def tableWord (nbits w : Nat) : CmdWord := BitVec.ofNat 64 (w % 2 ^ nbits)

/-- The command the decoder reads from an opcode-table word; `none` where it rejects the word. -/
def decodeTableWord (nbits w : Nat) : Option Instr :=
  match decode (tableWord nbits w) with
  | .ok i    => some i
  | .error _ => none

end Sys2Proof
end

