-- ==== Sys2Proof/Config.lean ====
section
/-! DEFINITION. What is fixed while the block runs (`10_state.md` R50): the parameters of `00_scope.md`
R8 as the fields of `Config`, the host-side constants of the same rule as the fields of `HostConfig`, and
the one open parameter, `SCALE_TO_FLOAT` (R253, D9), as an opaque constant. The VALUES the spec gives
the fields stand in `Sys2Proof/Machine/Params.lean`. -/

namespace Sys2Proof

/-- The parameters of the block (`00_scope.md` R8, R3; `93_implementation_defined.md` I2, I6, I8). -/
structure Config where
  /-- `TXCAP`: the size of the TX buffer in bytes. -/
  txcap     : Nat
  /-- `RXCAP`: the size of the RX buffer in bytes, anywhere in 25..255 (D4). -/
  rxcap     : Nat
  /-- `RESET_CMD`: the command-code byte of the reset frame (D6). -/
  resetCmd  : Byte
  /-- `ERR_MARK`: the error-marker bit of the function-code byte (D7). -/
  errMark   : Byte
  /-- `DECODE_LEN`: the only payload length the decoder accepts. -/
  decodeLen : Nat
  /-- The width of the CRC in bits (R3). -/
  crcWidth  : Nat
  /-- The CRC polynomial, most significant bit first (R3). -/
  crcPoly   : Half
  /-- The same polynomial bit-reflected, the form R170 shifts with (R3, R170). -/
  crcPolyReflected : Half
  /-- The initial value of the CRC (R3, R171). -/
  crcInit   : Half
  /-- Input reflection: each byte is taken least significant bit first (R3, R170). -/
  crcReflectIn  : Bool
  /-- Output reflection: the result is read in reflected form (R3, R171). -/
  crcReflectOut : Bool
  /-- The final XOR (R3, R171). -/
  crcXorOut : Half
  /-- `V_DIV`. -/
  vDiv      : Nat
  /-- `I_DIV`. -/
  iDiv      : Nat
  /-- `P_DIV`. -/
  pDiv      : Nat
  /-- `E_DIV` (conflict C1, R254). -/
  eDiv      : Nat
  /-- `F_DIV`. -/
  fDiv      : Nat
  /-- `PF_DIV`. -/
  pfDiv     : Nat
  deriving DecidableEq, Repr

/-- The values a model may give the parameters: `RXCAP` in 25..255 (R8, D4), a CRC as wide as its register
(R34) whose two polynomials are reflections of each other (R3), and divisors that are not zero (R158). -/
def Config.legal (c : Config) : Bool :=
  25 ≤ c.rxcap && c.rxcap ≤ 255 && c.txcap == 8
    && c.crcWidth == 16 && c.crcPolyReflected == c.crcPoly.reverse
    && c.vDiv != 0 && c.iDiv != 0 && c.pDiv != 0 && c.eDiv != 0 && c.fDiv != 0 && c.pfDiv != 0

/-- The host-side constants of `00_scope.md` R8 that a command sequence uses. The block does not read
them. -/
structure HostConfig where
  /-- `DEFAULT_ADDR`: the reserved broadcast or default address. -/
  defaultAddr     : Byte
  /-- `ADDR_MIN`. -/
  addrMin         : Byte
  /-- `ADDR_MAX`. -/
  addrMax         : Byte
  /-- `FC_READ_INPUT`. -/
  fcReadInput     : Byte
  /-- `FC_WRITE_SINGLE`. -/
  fcWriteSingle   : Byte
  /-- `REG_SLAVE_ADDR`. -/
  regSlaveAddr    : Half
  /-- `REG_ALARM`. -/
  regAlarm        : Half
  /-- `BLOCK_START`. -/
  blockStart      : Half
  /-- `BLOCK_COUNT`. -/
  blockCount      : Half
  /-- `CMD_DELAY` in milliseconds. -/
  cmdDelay        : Nat
  /-- `RESET_SETTLE` in milliseconds. -/
  resetSettle     : Nat
  /-- `REFRESH_INTERVAL` in milliseconds. -/
  refreshInterval : Nat
  deriving DecidableEq, Repr

/-- A floating-point rendering whose format the spec does not give (R253, N19): an uninterpreted code of
no fixed width. -/
structure FloatValue where
  /-- The code of the rendering. -/
  code : Nat
  deriving DecidableEq, Repr, Inhabited

/-- `SCALE_TO_FLOAT(raw, divisor)`: R253 lets a model "assume nothing of it except that it depends on
`raw` and `divisor` alone". It has no body, so nothing can be proved of its values (log entry 11). -/
opaque Config.scaleToFloat : (raw divisor : Nat) → FloatValue

end Sys2Proof
end

