-- ==== Sys2Proof/Machine/Params.lean ====
section
/-! DEFINITION. The values the spec gives the parameters and the host-side constants (`00_scope.md` R8,
R3). They stand here, in a file of the machine, so that a value a test shows wrong can be mended
(`93_implementation_defined.md` I6: "Keeping each one a named field lets a model correct it without a
change to any rule"). -/

namespace Sys2Proof.Machine

/-- The parameters at the values of R8 (log entries 6 and 7). -/
def params : Config where
  txcap     := 8
  rxcap     := 25
  resetCmd  := 0x42
  errMark   := 0x80
  decodeLen := 25
  crcWidth  := 16
  crcPoly   := 0x8005
  crcPolyReflected := 0xA001
  crcInit   := 0xFFFF
  crcReflectIn  := true
  crcReflectOut := true
  crcXorOut := 0x0000
  vDiv      := 10
  iDiv      := 1000
  pDiv      := 10
  eDiv      := 1000
  fDiv      := 10
  pfDiv     := 100

/-- The host-side constants at the values of R8. -/
def hostParams : HostConfig where
  defaultAddr     := 0xF8
  addrMin         := 0x01
  addrMax         := 0xF7
  fcReadInput     := 0x04
  fcWriteSingle   := 0x06
  regSlaveAddr    := 0x0002
  regAlarm        := 0x0001
  blockStart      := 0x0000
  blockCount      := 0x000A
  cmdDelay        := 200
  resetSettle     := 400
  refreshInterval := 1000

end Sys2Proof.Machine
end

