-- ==== Sys2Proof/Machine/State.lean ====
section
/-! DEFINITION. The state of the block, exactly the list of `10_state.md` R30, with the host's side of
the command port beside it; the reset state (R51); and the reasons a step can stop. -/

namespace Sys2Proof.Machine

/-- The contents of a frame buffer: (index, byte) cells, indexes strictly rising, no cell equal to what
an unlisted index reads as (log entry 9). -/
abbrev Memory := List Host.Cell

/-- What an unlisted byte of a buffer reads as: its reset value (R51: "`TX[0..7]` | 0x00 each",
"`RX[0..RXCAP-1]` | 0x00 each"). -/
def Memory.unlisted : Byte := 0x00

/-- The values of `TXLEN` (R30: "4 bits, values 0, 4 or 8"; R36): nothing built, a reset frame, a
register frame (log entry 8). -/
inductive TxLen where
  | zero
  | four
  | eight
  deriving DecidableEq, Repr

/-- The measurement registers of R48: raw, unscaled values. -/
structure Meas where
  /-- `MEAS.V`: voltage. -/
  v  : Half
  /-- `MEAS.I`: current. -/
  i  : Word
  /-- `MEAS.P`: active power. -/
  p  : Word
  /-- `MEAS.E`: cumulative energy. -/
  e  : Word
  /-- `MEAS.F`: frequency. -/
  f  : Half
  /-- `MEAS.PF`: power factor. -/
  pf : Half
  /-- `MEAS.AL`: alarm status. -/
  al : Half
  deriving DecidableEq, Repr

/-- The registers of R30, by name, as the host reads them (R33). A buffer byte is named by its index. -/
inductive HostReg where
  | crc
  | tx (i : Nat)
  | txlen
  | rx (i : Nat)
  | rxcnt
  | status
  | pvlen
  | deverr
  | measV
  | measI
  | measP
  | measE
  | measF
  | measPF
  | measAL
  deriving DecidableEq, Repr

/-- What the host can do to the block (R33, R82, R330): issue a command word, assert the reset input
between commands, read a register between commands. -/
inductive HostEvent where
  /-- A 64-bit command word on the command port (R85, R100). -/
  | command (w : CmdWord)
  /-- The reset input (R330; log entry 3). -/
  | reset
  /-- A host read of one register (R33; log entry 4). -/
  | read (r : HostReg)
  deriving DecidableEq, Repr

/-- The state. The first nine fields are the registers of R30; the last two are the host's side of the
command port, the model's own (log entries 1 and 4). -/
structure State where
  /-- `CRC`: the running checksum (R34). -/
  crc      : Half
  /-- `TX[0..7]`: the request-frame buffer (R35). -/
  tx       : Memory
  /-- `TXLEN`: the fill of `TX` (R36). -/
  txlen    : TxLen
  /-- `RX[0..RXCAP-1]`: the response-frame buffer (R37). -/
  rx       : Memory
  /-- `RXCNT`: bytes pushed since the last clear, saturating (R38). -/
  rxcnt    : Byte
  /-- `STATUS` (R39); its fields are named in `Machine/Flags.lean`. -/
  status   : BitVec 8
  /-- `PVLEN`: the length of the frame that set `PV` (R45). -/
  pvlen    : Byte
  /-- `DEVERR` (R46); its fields are named in `Machine/Flags.lean`. -/
  deverr   : Half
  /-- `MEAS` (R48). -/
  meas     : Meas
  /-- The model's own: what the host will do next, oldest first. -/
  pending  : List HostEvent
  /-- The model's own: what the host's last register read returned, zero-extended. -/
  readData : Word
  deriving DecidableEq, Repr

/-- The reset values of `10_state.md` R51. The last two fields are the model's (log entries 1 and 4). -/
def State.reset : State where
  crc      := 0xFFFF
  tx       := []
  txlen    := .zero
  rx       := []
  rxcnt    := 0
  status   := 0x00
  pvlen    := 0
  deverr   := 0x0000
  meas     := ⟨0, 0, 0, 0, 0, 0, 0⟩
  pending  := []
  readData := 0

/-- Why a step faults. No command ever does (R150); only a host read can. -/
inductive Fault where
  /-- A host read of a `MEAS` register while `STATUS.MV = 0` (R43, I4). Raised by
  `Machine/HostView.lean`, `hostRead` and its callers. Safe: the reset zeros are not a measurement. -/
  | measBeforeDecode
  /-- A host read of a buffer byte that does not exist: `TX[i]` with `i >= TXCAP` or `RX[i]` with
  `i >= RXCAP` (R70; log entry 10). Raised by `Machine/HostView.lean`, `hostRead`. Safe. -/
  | noSuchBufferByte
  deriving DecidableEq, Repr

/-- Why something is given no meaning. No step is ever refused (R150); the consumer-side readings below
refuse. -/
inductive Refusal where
  /-- An instruction without a meaning yet, by its mnemonic. Raised by no arm: every command has its
  meaning. Safe. -/
  | notModelled (mnemonic : String)
  /-- An alarm value other than 0x0000 and 0xFFFF read as an alarm state (R255, I1). Raised by
  `Machine/HostView.lean`, `alarmState`. Safe. -/
  | alarmUndefined
  /-- A buffer byte at or beyond the fill read as frame data (R36, R71, I5). Raised by
  `Machine/HostView.lean`, `frameByte`. Safe. -/
  | notFrameData
  /-- The pure function `append` on fewer than two bytes (R174, I11). Raised by `Machine/Crc.lean`,
  `append`. Safe. -/
  | appendTooShort
  deriving DecidableEq, Repr

end Sys2Proof.Machine
end

