-- ==== Sys2Proof/Machine/Flags.lean ====
section
/-! DEFINITION. The bit fields of `STATUS` (`10_state.md` R39) and `DEVERR` (R46), the result codes
(R40), the device-error kinds (R47, `42_frame_codec.md` R206), and the operations that read and write
them. -/

namespace Sys2Proof.Machine

/-- The result codes of R40 that are written; 8..15 are reserved and never written (R49). -/
inductive Result where
  | ok
  | shortRead
  | badChecksum
  | deviceError
  | echoMismatch
  | badLength
  | badOpcode
  | notValidated
  deriving DecidableEq, Repr

/-- The value of `STATUS.RESULT` for a result (R40). -/
def Result.code : Result → BitVec 4
  | .ok           => 0
  | .shortRead    => 1
  | .badChecksum  => 2
  | .deviceError  => 3
  | .echoMismatch => 4
  | .badLength    => 5
  | .badOpcode    => 6
  | .notValidated => 7

/-- Replaces `STATUS[3:0]` and keeps the four flags. -/
def statusWithResult (st : BitVec 8) (r : BitVec 4) : BitVec 8 := st.extractLsb' 4 4 ++ r

/-- Replaces one bit of `STATUS` and keeps the others. -/
def statusWithBit (st : BitVec 8) (k : Nat) (b : Bool) : BitVec 8 :=
  if b then st ||| (1#8 <<< k) else st &&& ~~~(1#8 <<< k)

/-- `STATUS.RESULT`, bits 3:0 (R39, R40). -/
def State.result (s : State) : BitVec 4 := s.status.extractLsb' 0 4

/-- `STATUS.VOK`, bit 4 (R41). -/
def State.vok (s : State) : Bool := s.status.getLsbD 4

/-- `STATUS.PV`, bit 5 (R44). -/
def State.pv (s : State) : Bool := s.status.getLsbD 5

/-- `STATUS.MV`, bit 6 (R43). -/
def State.mv (s : State) : Bool := s.status.getLsbD 6

/-- `STATUS.RXOVF`, bit 7 (R42). -/
def State.rxovf (s : State) : Bool := s.status.getLsbD 7

/-- `STATUS.RESULT <- r`. -/
def State.setResult (s : State) (r : BitVec 4) : State :=
  { s with status := statusWithResult s.status r }

/-- `STATUS.VOK <- b`. -/
def State.setVok (s : State) (b : Bool) : State := { s with status := statusWithBit s.status 4 b }

/-- `STATUS.PV <- 1; PVLEN <- n` (R44: "`PARSE` also copies the frame length into `PVLEN`"). -/
def State.setPv (s : State) (n : Byte) : State :=
  { s with status := statusWithBit s.status 5 true, pvlen := n }

/-- `STATUS.PV <- 0; PVLEN <- 0` (R45: "Whenever `PV` is cleared, `PVLEN` is set to 0"). -/
def State.clearPv (s : State) : State :=
  { s with status := statusWithBit s.status 5 false, pvlen := 0 }

/-- `STATUS.MV <- 1` (R43); no command clears it. -/
def State.setMv (s : State) : State := { s with status := statusWithBit s.status 6 true }

/-- `STATUS.RXOVF <- b` (R42). -/
def State.setRxovf (s : State) (b : Bool) : State := { s with status := statusWithBit s.status 7 b }

/-- `DEVERR.CODE`, bits 7:0 (R46). -/
def State.errCode (s : State) : Byte := s.deverr.extractLsb' 0 8

/-- `DEVERR.KIND`, bits 10:8 (R46). -/
def State.errKind (s : State) : BitVec 3 := s.deverr.extractLsb' 8 3

/-- `DEVERR` with the given fields; bits 15:11 are always 0 (R46). -/
def deverrWord (kind : BitVec 3) (code : Byte) : Half := 0#5 ++ kind ++ code

/-- `DEVERR <- v`. -/
def State.setDeverr (s : State) (v : Half) : State := { s with deverr := v }

/-- `devkind(code)`: the mapping of the error-code byte to `DEVERR.KIND` (R206, R47; a parameter of the
mapping by I14, at the default of D7; log entry 12). -/
def devkind (code : Byte) : BitVec 3 :=
  match code with
  | 0x01#8 => 1
  | 0x02#8 => 2
  | 0x03#8 => 3
  | 0x04#8 => 4
  | _      => 5

end Sys2Proof.Machine
end

