-- ==== Sys2Proof/Machine/Ops.lean ====
section
/-! DEFINITION. The named operations over the frame buffers (`00_scope.md` R10, `20_memory.md` R70), and
the one operation by which a command reports its outcome: `raise` and `finish` (R10, `40_common.md`
R152). The block has no trap entry and no trap return (`60_exceptions.md` R304), so `raise` stands where
a machine with traps would take an exception. -/

namespace Sys2Proof.Machine

/-- `buf[i]`: one byte of a buffer. -/
def readByte : Memory → Nat → Byte
  | [], _ => Memory.unlisted
  | (k, v) :: m, i => if k = i then v else readByte m i

/-- The buffer without a cell for index `i`. -/
def dropByte (m : Memory) (i : Nat) : Memory := m.filter (fun c => c.1 != i)

/-- The buffer with the cell `(i, b)` put before the first cell of a greater index. -/
def putCell : Memory → Nat → Byte → Memory
  | [], i, b => [(i, b)]
  | (k, v) :: m, i, b => if i < k then (i, b) :: (k, v) :: m else (k, v) :: putCell m i b

/-- `buf[i] <- b`. Writing what an unlisted index reads as removes the cell. -/
def writeByte (m : Memory) (i : Nat) (b : Byte) : Memory :=
  if b = Memory.unlisted then dropByte m i else putCell (dropByte m i) i b

/-- `MemRead(buf, i, n)`: the byte list `buf[i], ..., buf[i+n-1]` (R10). -/
def memRead (m : Memory) (i n : Nat) : List Byte := (List.range n).map (fun k => readByte m (i + k))

/-- `MemWrite(buf, i, n, list)`: writes the list from index `i` on (R10). -/
def memWrite (m : Memory) (i : Nat) : List Byte → Memory
  | [] => m
  | b :: bs => memWrite (writeByte m i b) (i + 1) bs

/-- The canonical form of a buffer: indexes strictly rising, no cell equal to what an unlisted index
reads as. -/
def Memory.wf (m : Memory) : Bool :=
  decide (m.Pairwise (fun a b => a.1 < b.1)) && m.all (fun c => c.2 != Memory.unlisted)

/-- Every listed index is below `cap` (R70: indices 0..7, and 0..`RXCAP`-1). -/
def Memory.below (cap : Nat) (m : Memory) : Bool := m.all (fun c => decide (c.1 < cap))

/-- `raise r` (R10, R152): the result is recorded and the command ends; what was written before stays. -/
def State.raise (r : Result) (s : State) : State := s.setResult r.code

/-- `finish` (R10): the command ends in `OK`. -/
def State.finish (s : State) : State := s.raise .ok

/-- `CRC <- v`. -/
def State.setCrc (s : State) (v : Half) : State := { s with crc := v }

/-- `MemWrite(TX, 0, 8, frame); TXLEN <- len` (R200, R201). -/
def State.buildTx (s : State) (frame : List Byte) (len : TxLen) : State :=
  { s with tx := memWrite s.tx 0 frame, txlen := len }

/-- `RX[i] <- 0x00` for every `i`, and `RXCNT <- 0` (R202). -/
def State.emptyRx (s : State) : State := { s with rx := [], rxcnt := 0 }

/-- `min(RXCNT + 1, 255)` (R38, R158). -/
def satIncr (c : Byte) : Byte := BitVec.ofNat 8 (min (c.toNat + 1) 255)

/-- The bytes a push stores and the count it leaves (R203): the byte goes to `RX[RXCNT]` while there is
room, else nothing is stored and `RXOVF` is set; the count advances, saturating. -/
def State.pushRx (s : State) (b : Byte) : State :=
  if s.rxcnt.toNat < params.rxcap then
    { s with rx := writeByte s.rx s.rxcnt.toNat b, rxcnt := satIncr s.rxcnt }
  else
    { (s.setRxovf true) with rxcnt := satIncr s.rxcnt }

/-- `MEAS <- m`, all seven registers in one step (R48). -/
def State.setMeas (s : State) (m : Meas) : State := { s with meas := m }

end Sys2Proof.Machine
end

