-- ==== Sys2Proof/Machine/Operands.lean ====
section
/-! DEFINITION. The operand forms of the commands (`30_encoding.md` R103 to R107): the selected buffer
and its fill (`20_memory.md` R71, R72), and the byte splits and compositions (R73 to R75). -/

namespace Sys2Proof.Machine

/-- The value of `TXLEN` as a number (R36). -/
def TxLen.toNat : TxLen → Nat
  | .zero  => 0
  | .four  => 4
  | .eight => 8

/-- The value of `TXLEN` as its 4 bits (R30). -/
def TxLen.bits (l : TxLen) : BitVec 4 := BitVec.ofNat 4 l.toNat

/-- The selected buffer (R72). -/
def State.buf (s : State) : Buf → Memory
  | .tx => s.tx
  | .rx => s.rx

/-- The state with the selected buffer replaced. -/
def State.setBuf (s : State) : Buf → Memory → State
  | .tx, m => { s with tx := m }
  | .rx, m => { s with rx := m }

/-- `FILL(TX) = TXLEN` and `FILL(RX) = min(RXCNT, RXCAP)` (R71). -/
def State.fill (s : State) : Buf → Nat
  | .tx => s.txlen.toNat
  | .rx => min s.rxcnt.toNat params.rxcap

/-- The first `n` bytes of the selected buffer: `MemRead(BUF, 0, n)`. -/
def State.head (s : State) (b : Buf) (n : Nat) : List Byte := memRead (s.buf b) 0 n

/-- `v[7:0]`. -/
def loByte (v : Half) : Byte := v.extractLsb' 0 8

/-- `v[15:8]`. -/
def hiByte (v : Half) : Byte := v.extractLsb' 8 8

/-- A checksum as its trailer, low byte first (R73). -/
def trailer (c : Half) : List Byte := [loByte c, hiByte c]

/-- A 16-bit quantity as its two bytes, high byte first (R74). -/
def bigEndian (v : Half) : List Byte := [hiByte v, loByte v]

/-- A 16-bit measurement at frame offset `k`: `{RX[k], RX[k+1]}` (R74). -/
def field16 (m : Memory) (k : Nat) : Half := readByte m k ++ readByte m (k + 1)

/-- A 32-bit measurement at frame offset `k`: `{RX[k+2], RX[k+3], RX[k], RX[k+1]}` (R75). -/
def field32 (m : Memory) (k : Nat) : Word :=
  readByte m (k + 2) ++ readByte m (k + 3) ++ readByte m k ++ readByte m (k + 1)

end Sys2Proof.Machine
end

