-- ==== Sys2Proof/Machine/Crc.lean ====
section
/-! DEFINITION. The pure functions of the Checksum Engine (`41_checksum.md` R170 to R174), in the bit
form the commands use and in the table form of R172. -/

namespace Sys2Proof.Machine

/-- One shift with the configured polynomial. Under input reflection, which R3 fixes, it is R170's: right
by one, with the reflected polynomial added when the bit shifted out is 1. The other direction is what
the parameter's other value would mean (log entry 16). -/
def crcShift (c : Half) : Half :=
  if params.crcReflectIn then
    if c.getLsbD 0 then (c >>> 1) ^^^ params.crcPolyReflected else c >>> 1
  else
    if c.msb then (c <<< 1) ^^^ params.crcPoly else c <<< 1

/-- `n` shifts. -/
def crcShifts : Nat → Half → Half
  | 0, c => c
  | n + 1, c => crcShifts n (crcShift c)

/-- The place a byte takes in the accumulator: its low end under input reflection (R170), the high end
otherwise (log entry 16). -/
def crcAlign (b : Byte) : Half :=
  if params.crcReflectIn then b.setWidth 16 else b.setWidth 16 <<< (params.crcWidth - 8)

/-- `crc_step(c, b)` (R170). -/
def crcStep (c : Half) (b : Byte) : Half := crcShifts 8 (c ^^^ crcAlign b)

/-- The result read from the accumulator: reflected when the input and output reflections differ, then the
final XOR. With the values of R3 it is the accumulator itself (R171). -/
def crcFinal (c : Half) : Half :=
  (if params.crcReflectIn == params.crcReflectOut then c else c.reverse) ^^^ params.crcXorOut

/-- `crc16(list)` (R171). -/
def crc16 (l : List Byte) : Half := crcFinal (l.foldl crcStep params.crcInit)

/-- Row `0x0_` of the table of R172. -/
def crcRow0 : List Half :=
  [0x0000, 0xC0C1, 0xC181, 0x0140, 0xC301, 0x03C0, 0x0280, 0xC241,
   0xC601, 0x06C0, 0x0780, 0xC741, 0x0500, 0xC5C1, 0xC481, 0x0440]

/-- Row `0x1_` of the table of R172. -/
def crcRow1 : List Half :=
  [0xCC01, 0x0CC0, 0x0D80, 0xCD41, 0x0F00, 0xCFC1, 0xCE81, 0x0E40,
   0x0A00, 0xCAC1, 0xCB81, 0x0B40, 0xC901, 0x09C0, 0x0880, 0xC841]

/-- Row `0x2_` of the table of R172. -/
def crcRow2 : List Half :=
  [0xD801, 0x18C0, 0x1980, 0xD941, 0x1B00, 0xDBC1, 0xDA81, 0x1A40,
   0x1E00, 0xDEC1, 0xDF81, 0x1F40, 0xDD01, 0x1DC0, 0x1C80, 0xDC41]

/-- Row `0x3_` of the table of R172. -/
def crcRow3 : List Half :=
  [0x1400, 0xD4C1, 0xD581, 0x1540, 0xD701, 0x17C0, 0x1680, 0xD641,
   0xD201, 0x12C0, 0x1380, 0xD341, 0x1100, 0xD1C1, 0xD081, 0x1040]

/-- Row `0x4_` of the table of R172. -/
def crcRow4 : List Half :=
  [0xF001, 0x30C0, 0x3180, 0xF141, 0x3300, 0xF3C1, 0xF281, 0x3240,
   0x3600, 0xF6C1, 0xF781, 0x3740, 0xF501, 0x35C0, 0x3480, 0xF441]

/-- Row `0x5_` of the table of R172. -/
def crcRow5 : List Half :=
  [0x3C00, 0xFCC1, 0xFD81, 0x3D40, 0xFF01, 0x3FC0, 0x3E80, 0xFE41,
   0xFA01, 0x3AC0, 0x3B80, 0xFB41, 0x3900, 0xF9C1, 0xF881, 0x3840]

/-- Row `0x6_` of the table of R172. -/
def crcRow6 : List Half :=
  [0x2800, 0xE8C1, 0xE981, 0x2940, 0xEB01, 0x2BC0, 0x2A80, 0xEA41,
   0xEE01, 0x2EC0, 0x2F80, 0xEF41, 0x2D00, 0xEDC1, 0xEC81, 0x2C40]

/-- Row `0x7_` of the table of R172. -/
def crcRow7 : List Half :=
  [0xE401, 0x24C0, 0x2580, 0xE541, 0x2700, 0xE7C1, 0xE681, 0x2640,
   0x2200, 0xE2C1, 0xE381, 0x2340, 0xE101, 0x21C0, 0x2080, 0xE041]

/-- Row `0x8_` of the table of R172. -/
def crcRow8 : List Half :=
  [0xA001, 0x60C0, 0x6180, 0xA141, 0x6300, 0xA3C1, 0xA281, 0x6240,
   0x6600, 0xA6C1, 0xA781, 0x6740, 0xA501, 0x65C0, 0x6480, 0xA441]

/-- Row `0x9_` of the table of R172. -/
def crcRow9 : List Half :=
  [0x6C00, 0xACC1, 0xAD81, 0x6D40, 0xAF01, 0x6FC0, 0x6E80, 0xAE41,
   0xAA01, 0x6AC0, 0x6B80, 0xAB41, 0x6900, 0xA9C1, 0xA881, 0x6840]

/-- Row `0xA_` of the table of R172. -/
def crcRowA : List Half :=
  [0x7800, 0xB8C1, 0xB981, 0x7940, 0xBB01, 0x7BC0, 0x7A80, 0xBA41,
   0xBE01, 0x7EC0, 0x7F80, 0xBF41, 0x7D00, 0xBDC1, 0xBC81, 0x7C40]

/-- Row `0xB_` of the table of R172. -/
def crcRowB : List Half :=
  [0xB401, 0x74C0, 0x7580, 0xB541, 0x7700, 0xB7C1, 0xB681, 0x7640,
   0x7200, 0xB2C1, 0xB381, 0x7340, 0xB101, 0x71C0, 0x7080, 0xB041]

/-- Row `0xC_` of the table of R172. -/
def crcRowC : List Half :=
  [0x5000, 0x90C1, 0x9181, 0x5140, 0x9301, 0x53C0, 0x5280, 0x9241,
   0x9601, 0x56C0, 0x5780, 0x9741, 0x5500, 0x95C1, 0x9481, 0x5440]

/-- Row `0xD_` of the table of R172. -/
def crcRowD : List Half :=
  [0x9C01, 0x5CC0, 0x5D80, 0x9D41, 0x5F00, 0x9FC1, 0x9E81, 0x5E40,
   0x5A00, 0x9AC1, 0x9B81, 0x5B40, 0x9901, 0x59C0, 0x5880, 0x9841]

/-- Row `0xE_` of the table of R172. -/
def crcRowE : List Half :=
  [0x8801, 0x48C0, 0x4980, 0x8941, 0x4B00, 0x8BC1, 0x8A81, 0x4A40,
   0x4E00, 0x8EC1, 0x8F81, 0x4F40, 0x8D01, 0x4DC0, 0x4C80, 0x8C41]

/-- Row `0xF_` of the table of R172. -/
def crcRowF : List Half :=
  [0x4400, 0x84C1, 0x8581, 0x4540, 0x8701, 0x47C0, 0x4680, 0x8641,
   0x8201, 0x42C0, 0x4380, 0x8341, 0x4100, 0x81C1, 0x8081, 0x4040]

/-- `TABLE` (R172), the 256 values as the rule prints them. -/
def crcTableValues : List Half :=
  crcRow0 ++ crcRow1 ++ crcRow2 ++ crcRow3 ++ crcRow4 ++ crcRow5 ++ crcRow6 ++ crcRow7
    ++ crcRow8 ++ crcRow9 ++ crcRowA ++ crcRowB ++ crcRowC ++ crcRowD ++ crcRowE ++ crcRowF

/-- `TABLE[i]` (R172). -/
def crcTable (i : Byte) : Half := crcTableValues.getD i.toNat 0

/-- The table form of the byte step (R172). -/
def crcStepTable (c : Half) (b : Byte) : Half :=
  (c >>> 8) ^^^ crcTable ((c ^^^ b.setWidth 16).setWidth 8)

/-- `{b[n-1], b[n-2]}` for a list of length `n`: its last two bytes read little-endian (R173). -/
def trailerOf (l : List Byte) : Half := l.getD (l.length - 1) 0 ++ l.getD (l.length - 2) 0

/-- `verify(list)` (R173). -/
def verify (l : List Byte) : Bool :=
  if l.length ≤ 2 then false else crc16 (l.take (l.length - 2)) == trailerOf l

/-- `append(list)` (R174); it is not defined on fewer than two bytes (I11). -/
def append (l : List Byte) : Except Refusal (List Byte) :=
  if l.length < 2 then .error .appendTooShort
  else .ok (l.take (l.length - 2) ++ trailer (crc16 (l.take (l.length - 2))))

end Sys2Proof.Machine
end

