-- ==== Sys2Proof/Machine/Checksum.lean ====
section
/-! DEFINITION. The five commands of the Checksum Engine (`41_checksum.md` R180 to R184). -/

namespace Sys2Proof.Machine

/-- `CRC_INIT` (R180): `CRC <- 0xFFFF; finish`. -/
def execCrcInit (s : State) : Host.Outcome State Fault Refusal :=
  .next (s.setCrc params.crcInit).finish

/-- `CRC_FEED b` (R181): `CRC <- crc_step(CRC, B); finish`. -/
def execCrcFeed (b : Byte) (s : State) : Host.Outcome State Fault Refusal :=
  .next (s.setCrc (crcStep s.crc b)).finish

/-- `CRC_BUF buf, n` (R182). -/
def execCrcBuf (buf : Buf) (n : Byte) (s : State) : Host.Outcome State Fault Refusal :=
  if n.toNat > s.fill buf then .next (s.raise .badLength)
  else .next (s.setCrc (crc16 (s.head buf n.toNat))).finish

/-- `CRC_VERIFY buf, n` (R183). -/
def execCrcVerify (buf : Buf) (n : Byte) (s : State) : Host.Outcome State Fault Refusal :=
  if n.toNat > s.fill buf then .next (s.raise .badLength)
  else
    let ok := verify (s.head buf n.toNat)
    .next ((s.setVok ok).raise (if ok then .ok else .badChecksum))

/-- The write of `CRC_APPEND` (R184): the trailer of bytes `0..n-3` goes to indexes `n-2` and `n-1`. -/
def State.appendTrailer (s : State) (buf : Buf) (n : Nat) : State :=
  s.setBuf buf (memWrite (s.buf buf) (n - 2) (trailer (crc16 (s.head buf (n - 2)))))

/-- `CRC_APPEND buf, n` (R184); a write to `RX` also clears `PV` and `PVLEN` (R44). -/
def execCrcAppend (buf : Buf) (n : Byte) (s : State) : Host.Outcome State Fault Refusal :=
  if n.toNat > s.fill buf ∨ n.toNat < 2 then .next (s.raise .badLength)
  else
    let t := s.appendTrailer buf n.toNat
    .next (match buf with | .tx => t | .rx => t.clearPv).finish

end Sys2Proof.Machine
end

