-- ==== Sys2Proof/Machine/Common.lean ====
section
/-! DEFINITION. The commands that belong to no unit (`40_common.md`): `NOP`, and the handling of an
illegal command word. -/

namespace Sys2Proof.Machine

/-- `NOP` (R154): `finish`. -/
def execNop (s : State) : Host.Outcome State Fault Refusal := .next s.finish

/-- An illegal command word (R153): `raise BAD_OPCODE`, and nothing else changes. -/
def illegalWord (s : State) : Host.Outcome State Fault Refusal := .next (s.raise .badOpcode)

end Sys2Proof.Machine
end

