-- ==== Sys2Proof/Machine/FrameCodec.lean ====
section
/-! DEFINITION. The six commands of the Frame Codec (`42_frame_codec.md` R200 to R207). -/

namespace Sys2Proof.Machine

/-- The six header bytes of a register frame in wire order (R112, R200). -/
def regHeader (addr func : Byte) (reg val : Half) : List Byte :=
  [addr, func] ++ bigEndian reg ++ bigEndian val

/-- `BUILD_REG addr, func, reg, val` (R200). -/
def execBuildReg (addr func : Byte) (reg val : Half) (s : State) :
    Host.Outcome State Fault Refusal :=
  let h := regHeader addr func reg val
  .next (s.buildTx (h ++ trailer (crc16 h)) .eight).finish

/-- `BUILD_RESET addr` (R201): four frame bytes and four bytes of zero padding (D21). -/
def execBuildReset (addr : Byte) (s : State) : Host.Outcome State Fault Refusal :=
  let h := [addr, params.resetCmd]
  .next (s.buildTx (h ++ trailer (crc16 h) ++ [0x00, 0x00, 0x00, 0x00]) .four).finish

/-- `RX_CLEAR` (R202). -/
def execRxClear (s : State) : Host.Outcome State Fault Refusal :=
  .next ((s.emptyRx.setRxovf false).clearPv).finish

/-- `RX_PUSH b` (R203). -/
def execRxPush (b : Byte) (s : State) : Host.Outcome State Fault Refusal :=
  .next ((s.pushRx b).clearPv).finish

/-- `PARSE n` (R204): the writes of its first line stay whatever the outcome (R152), and the checks keep
the source's order (R302). -/
def execParse (n : Byte) (s : State) : Host.Outcome State Fault Refusal :=
  let s₁ := s.clearPv.setDeverr 0x0000
  if n.toNat > params.rxcap then .next (s₁.raise .badLength)
  else if s.rxcnt ≠ n then .next (s₁.raise .shortRead)
  else if ¬ verify (s.head .rx n.toNat) then .next (s₁.raise .badChecksum)
  else if readByte s.rx 1 &&& params.errMark ≠ 0 then
    .next ((s₁.setDeverr (deverrWord (devkind (readByte s.rx 2)) (readByte s.rx 2))).raise .deviceError)
  else .next (s₁.setPv n).finish

/-- `ECHO_CHECK` (R205). -/
def execEchoCheck (s : State) : Host.Outcome State Fault Refusal :=
  if ¬ s.pv then .next (s.raise .notValidated)
  else if s.pvlen.toNat ≠ s.txlen.toNat then .next (s.raise .echoMismatch)
  else if s.head .rx s.txlen.toNat ≠ s.head .tx s.txlen.toNat then .next (s.raise .echoMismatch)
  else .next s.finish

end Sys2Proof.Machine
end

