-- ==== Sys2Proof/Machine/RegisterDecoder.lean ====
section
/-! DEFINITION. The command of the Register Decoder (`43_register_decoder.md` R250, R251). -/

namespace Sys2Proof.Machine

/-- The seven measurements of a 25-byte payload, by frame offset (R251, R80). -/
def decodePayload (b : Memory) : Meas where
  v  := field16 b 3
  i  := field32 b 5
  p  := field32 b 9
  e  := field32 b 13
  f  := field16 b 17
  pf := field16 b 19
  al := field16 b 21

/-- `DECODE` (R250). -/
def execDecode (s : State) : Host.Outcome State Fault Refusal :=
  if ¬ s.pv then .next (s.raise .notValidated)
  else if s.pvlen.toNat ≠ params.decodeLen then .next (s.raise .badLength)
  else .next ((s.setMeas (decodePayload s.rx)).setMv).finish

end Sys2Proof.Machine
end

