-- ==== Sys2Proof/Machine/Dispatch.lean ====
section
/-! DEFINITION. The one match over the commands (`30_encoding.md` R108): each arm calls its meaning. -/

namespace Sys2Proof.Machine

def exec (i : Instr) (s : State) : Host.Outcome State Fault Refusal :=
  match i with
  | .nop => Sys2Proof.Machine.execNop s
  | .crcInit => Sys2Proof.Machine.execCrcInit s
  | .crcFeed b => Sys2Proof.Machine.execCrcFeed b s
  | .crcBuf buf n => Sys2Proof.Machine.execCrcBuf buf n s
  | .crcVerify buf n => Sys2Proof.Machine.execCrcVerify buf n s
  | .crcAppend buf n => Sys2Proof.Machine.execCrcAppend buf n s
  | .buildReg addr func reg val => Sys2Proof.Machine.execBuildReg addr func reg val s
  | .buildReset addr => Sys2Proof.Machine.execBuildReset addr s
  | .rxClear => Sys2Proof.Machine.execRxClear s
  | .rxPush b => Sys2Proof.Machine.execRxPush b s
  | .parse n => Sys2Proof.Machine.execParse n s
  | .echoCheck => Sys2Proof.Machine.execEchoCheck s
  | .decode => Sys2Proof.Machine.execDecode s

end Sys2Proof.Machine
end

