-- ==== Sys2Proof/Machine/HostView.lean ====
section
/-! DEFINITION. The host's side: reading a register between commands (`10_state.md` R33, R43), and the
consumer's readings of what it read: exact scaled values and their rendering (`43_register_decoder.md`
R252, R253), the alarm state (R255), and buffer bytes as frame data (R36, R71). -/

namespace Sys2Proof.Machine

/-- What a register of R30 holds, zero-extended to 32 bits. -/
def State.reg (s : State) : HostReg → Word
  | .crc    => s.crc.setWidth 32
  | .tx i   => (readByte s.tx i).setWidth 32
  | .txlen  => s.txlen.bits.setWidth 32
  | .rx i   => (readByte s.rx i).setWidth 32
  | .rxcnt  => s.rxcnt.setWidth 32
  | .status => s.status.setWidth 32
  | .pvlen  => s.pvlen.setWidth 32
  | .deverr => s.deverr.setWidth 32
  | .measV  => s.meas.v.setWidth 32
  | .measI  => s.meas.i
  | .measP  => s.meas.p
  | .measE  => s.meas.e
  | .measF  => s.meas.f.setWidth 32
  | .measPF => s.meas.pf.setWidth 32
  | .measAL => s.meas.al.setWidth 32

/-- The register is one of the seven measurement registers (R48). -/
def HostReg.isMeas : HostReg → Bool
  | .measV | .measI | .measP | .measE | .measF | .measPF | .measAL => true
  | .crc | .tx _ | .txlen | .rx _ | .rxcnt | .status | .pvlen | .deverr => false

/-- The register exists: a buffer byte does only at an index below the buffer's size (R70). -/
def HostReg.exists? : HostReg → Bool
  | .tx i => decide (i < params.txcap)
  | .rx i => decide (i < params.rxcap)
  | _     => true

/-- A host read (R33): the register's value; a read of `MEAS` while `MV = 0` is a fault (R43, I4). -/
def hostRead (r : HostReg) (s : State) : Except Fault Word :=
  if ¬ r.exists? then .error .noSuchBufferByte
  else if r.isMeas ∧ ¬ s.mv then .error .measBeforeDecode
  else .ok (s.reg r)

/-- A host read as a step: the value goes to the host and no register changes (R79). -/
def serveRead (r : HostReg) (s : State) : Host.Outcome State Fault Refusal :=
  match hostRead r s with
  | .ok v    => .next { s with readData := v }
  | .error f => .fault f

/-- The reset input (R330): every register of R30 takes its value of R51, whatever it held. The host's
side of the port is not the block's and stays. -/
def State.assertReset (s : State) : State :=
  { State.reset with pending := s.pending, readData := s.readData }

/-- The scaled measurements of R252. -/
inductive Quantity where
  | voltage
  | current
  | power
  | energy
  | frequency
  | powerFactor
  deriving DecidableEq, Repr

/-- The raw value of a measurement (R48). -/
def State.raw (s : State) : Quantity → Nat
  | .voltage     => s.meas.v.toNat
  | .current     => s.meas.i.toNat
  | .power       => s.meas.p.toNat
  | .energy      => s.meas.e.toNat
  | .frequency   => s.meas.f.toNat
  | .powerFactor => s.meas.pf.toNat

/-- The divisor of a measurement (R8, R48, R252). -/
def Quantity.divisor : Quantity → Nat
  | .voltage     => params.vDiv
  | .current     => params.iDiv
  | .power       => params.pDiv
  | .energy      => params.eDiv
  | .frequency   => params.fDiv
  | .powerFactor => params.pfDiv

/-- The scaled value: "the exact rational `raw / divisor`" (R252), read while `MV = 1` (R43). -/
def scaledValue (q : Quantity) (s : State) : Except Fault Rat :=
  if s.mv then .ok ((s.raw q : Rat) / (q.divisor : Rat)) else .error .measBeforeDecode

/-- The floating-point rendering of a measurement through the open `SCALE_TO_FLOAT` (R253). -/
def renderedValue (q : Quantity) (s : State) : Except Fault FloatValue :=
  if s.mv then .ok (Config.scaleToFloat (s.raw q) q.divisor) else .error .measBeforeDecode

/-- The two alarm states the source defines (R255). -/
inductive Alarm where
  | inactive
  | active
  deriving DecidableEq, Repr

/-- `MEAS.AL` read as a state: 0x0000 is no alarm, 0xFFFF is alarm active, every other value is
undefined and must not be mapped to either (R255, I1); no reading while `MV = 0` (R43). -/
def alarmState (s : State) : Host.Outcome Alarm Fault Refusal :=
  if ¬ s.mv then .fault .measBeforeDecode
  else if s.meas.al = 0x0000 then .next .inactive
  else if s.meas.al = 0xFFFF then .next .active
  else .refused .alarmUndefined

/-- A buffer byte read as frame data: only an index below the fill is (R36, R71, I5). -/
def frameByte (b : Buf) (i : Nat) (s : State) : Except Refusal Byte :=
  if i < s.fill b then .ok (readByte (s.buf b) i) else .error .notFrameData

end Sys2Proof.Machine
end

