-- ==== Sys2Proof/Machine/Port.lean ====
section
/-! DEFINITION. The command port (`20_memory.md` R85): what the block does with one host event, and how a
word is put at the head of the port. `Step.lean` only calls these. -/

namespace Sys2Proof.Machine

/-- A command word: an illegal word is checked for before anything else (R153), then the decoded
command runs. -/
def runWord (w : CmdWord) (s : State) : Host.Outcome State Fault Refusal :=
  match decode w with
  | .ok i    => exec i s
  | .error _ => illegalWord s

/-- What one host event does to the block. -/
def serve (e : HostEvent) (s : State) : Host.Outcome State Fault Refusal :=
  match e with
  | .command w => runWord w s
  | .reset     => .next s.assertReset
  | .read r    => serveRead r s

/-- The oldest pending event is taken off the port and served; with none pending the block is idle and
keeps all state (R308, R331). -/
def takeEvent (s : State) : Host.Outcome State Fault Refusal :=
  match s.pending with
  | []        => .next s
  | e :: rest => serve e { s with pending := rest }

/-- `w` put at the head of the port, to be taken by the very next step. -/
def State.issue (s : State) (w : CmdWord) : State := { s with pending := .command w :: s.pending }

end Sys2Proof.Machine
end

