-- ==== Sys2Proof/Machine/Step.lean ====
section
/-! DEFINITION. One step of the machine (`40_common.md` R150; log entry 1). -/

namespace Sys2Proof.Machine

/-- One step: the oldest event of the command port is served. -/
def step (s : State) : Host.Outcome State Fault Refusal := takeEvent s

/-- `s` with the command word of the given opcode-table bits at the head of the command port, so that
the next step runs exactly it (log entry 2). -/
def State.withFetchWord (s : State) (nbits w : Nat) : State := s.issue (tableWord nbits w)

end Sys2Proof.Machine
end

