-- ==== Sys2Proof/Machine/HostProgram.lean ====
section
/-! DEFINITION. Host command sequences: running a list of commands, the expansions of the
pseudo-commands (`30_encoding.md` R111), and the command parts of the host sequences R334 to R336 of
`70_reset_and_hazards.md`. The transport and the waits between the parts are the Device Session's, out
of scope by `00_scope.md` R6; `reply` is whatever bytes the host received (R340, I12). -/

namespace Sys2Proof.Machine

/-- The commands of a list, one after another (R82), stopping at the first that does not answer a next
state (none does, R150). -/
def execAll : List Instr → State → Host.Outcome State Fault Refusal
  | [], s => .next s
  | i :: is, s =>
    match exec i s with
    | .next t    => execAll is t
    | .fault f   => .fault f
    | .refused r => .refused r

/-- The expansion of a pseudo-command (R111). -/
def expand : PseudoCmd → List Instr
  | .rxLoad bytes          => .rxClear :: bytes.map .rxPush
  | .crcBytes bytes        => .crcInit :: bytes.map .crcFeed
  | .readBlock addr        =>
    [.buildReg addr hostParams.fcReadInput hostParams.blockStart hostParams.blockCount]
  | .writeReg addr reg val => [.buildReg addr hostParams.fcWriteSingle reg val]
  | .setAddrFrame addr new =>
    [.buildReg addr hostParams.fcWriteSingle hostParams.regSlaveAddr (new.setWidth 16)]
  | .validateEcho n        => [.parse n, .echoCheck]

/-- The commands of a measurement read whose reply is `reply` (R334). -/
def measurementRead (addr : Byte) (reply : List Byte) : List Instr :=
  expand (.readBlock addr) ++ expand (.rxLoad reply) ++ [.parse 25, .decode]

/-- The commands of a register write with echo verification (R335). -/
def registerWrite (addr : Byte) (reg val : Half) (reply : List Byte) : List Instr :=
  expand (.writeReg addr reg val) ++ expand (.rxLoad reply) ++ expand (.validateEcho 8)

/-- The commands of an energy reset (R336). -/
def energyReset (addr : Byte) (reply : List Byte) : List Instr :=
  [.buildReset addr] ++ expand (.rxLoad reply) ++ [.parse 4]

end Sys2Proof.Machine
end

