-- ==== Sys2Proof/Safety.lean ====
section
/-! DEFINITION. The terms in which claims about the block are stated: what a command leaves unchanged,
when a step is safe, and the invariant of the block's state that the spec's prose gives (`10_state.md`
R36, R37, R43 to R46, R49; `20_memory.md` R70, R71). -/

namespace Sys2Proof.Machine

/-- Every register of R30 that is not among the written ones, every byte of both buffers among them, and
the host's side of the port hold in `t` what they held in `s`. -/
def Keeps (written : HostReg → Prop) (s t : State) : Prop :=
  (∀ r : HostReg, ¬ written r → t.reg r = s.reg r)
    ∧ t.pending = s.pending ∧ t.readData = s.readData

/-- The four flags of `STATUS` (R39), each unchanged. -/
def KeepsFlags (s t : State) : Prop :=
  t.vok = s.vok ∧ t.pv = s.pv ∧ t.mv = s.mv ∧ t.rxovf = s.rxovf

/-- The step answers a next state. -/
def SafeStep (s : State) : Prop := ∃ t, step s = .next t

/-- No measurement: the reset values of `MEAS` (R51). -/
def Meas.none : Meas := ⟨0, 0, 0, 0, 0, 0, 0⟩

/-- The name of byte `i` of a buffer, as the host reads it. -/
def byteOf : Buf → Nat → HostReg
  | .tx, i => .tx i
  | .rx, i => .rx i

/-- The register is a byte of one of the two buffers. -/
def HostReg.isByte : HostReg → Bool
  | .tx _ | .rx _ => true
  | .crc | .txlen | .rxcnt | .status | .pvlen | .deverr | .measV | .measI | .measP | .measE | .measF
  | .measPF | .measAL => false

/-- "`PV = 1` means that `RX[0..PVLEN-1]` is exactly a frame that passed the length, checksum and
device-error checks of §4.2, with nothing changed since" (R44): its length is the count of pushed bytes
and fits `RX`, it verifies, and its marker bit is clear. -/
def State.PayloadOk (s : State) : Prop :=
  s.pv = true → s.pvlen = s.rxcnt ∧ s.pvlen.toNat ≤ params.rxcap
    ∧ verify (s.head .rx s.pvlen.toNat) = true ∧ readByte s.rx 1 &&& params.errMark = 0

/-- What holds of every state of the block between two events. -/
structure State.Inv (s : State) : Prop where
  /-- `TX` is in canonical form and lists indexes 0..7 only (R70). -/
  txForm    : Memory.wf s.tx = true ∧ Memory.below params.txcap s.tx = true
  /-- `RX` is in canonical form and lists indexes 0..`RXCAP`-1 only (R70). -/
  rxForm    : Memory.wf s.rx = true ∧ Memory.below params.rxcap s.rx = true
  /-- The reserved result codes 8..15 are never held (R40, R49). -/
  result    : s.result.toNat ≤ 7
  /-- `DEVERR[15:11]` is zero (R46, R49). -/
  reserved  : s.deverr.extractLsb' 11 5 = 0
  /-- The reserved kinds 6 and 7 are never held (R47, R49). -/
  kind      : s.errKind.toNat ≤ 5
  /-- `DEVERR` is zero or holds a code with its own kind (R46). -/
  devErr    : s.deverr = 0 ∨ s.errKind = devkind s.errCode
  /-- The bytes of `TX` beyond the frame are zero (R35, R36, R201). -/
  txRest    : ∀ i, s.txlen.toNat ≤ i → readByte s.tx i = 0
  /-- The bytes of `RX` beyond its fill are zero (R71, R202, R203). -/
  rxRest    : ∀ i, s.fill .rx ≤ i → readByte s.rx i = 0
  /-- Without a validated payload `PVLEN` is 0 (R45). -/
  noPayload : s.pv = false → s.pvlen = 0
  /-- With one, it is what R44 says. -/
  payload   : s.PayloadOk
  /-- While `MV = 0` the `MEAS` registers hold their reset values (R43). -/
  noMeas    : s.mv = false → s.meas = Meas.none
  /-- `RXOVF` is set exactly when more bytes were pushed than `RX` holds (R38, R42). -/
  overflow  : s.rxovf = true ↔ params.rxcap < s.rxcnt.toNat

end Sys2Proof.Machine
end

