-- ==== Sys2Proof/Certificates/Slice0/Obligations.lean ====
section
/-! DEFINITION. The statements about the model, written from the numbered rules of spec/. `Keeps`,
`KeepsFlags`, `State.PayloadOk` and `State.Inv` are defined in `Sys2Proof/Safety.lean`. In every
statement about a command, `Keeps` is the frame: each register of `10_state.md` R30 that is not named as
written, each byte of both buffers among them, and the host's side of the port are unchanged. -/

open Sys2Proof Sys2Proof.Machine

/-! ## Reset and the command port -/

/-- R51: after reset `CRC` is 0xFFFF and every other register, every byte of `TX` and `RX` and every bit
of `STATUS` is 0. -/
def Obligations.ResetStateIsTheTableOfR51 : Prop :=
  (∀ r : HostReg, State.reset.reg r = if r = .crc then 0xFFFF else 0)
    ∧ State.reset.result = 0 ∧ State.reset.vok = false ∧ State.reset.pv = false
    ∧ State.reset.mv = false ∧ State.reset.rxovf = false

/-- `70_reset_and_hazards.md` section 1: the reset input puts every register into its reset value,
whatever it held. That the input is a host event, taken between commands, and that the host's queue stays,
is the model's choice (log entries 1 and 3). -/
def Obligations.ResetInputRestoresEveryRegister : Prop :=
  ∀ (s : State) (rest : List HostEvent), s.pending = .reset :: rest →
    ∃ t, step s = .next t ∧ (∀ r : HostReg, t.reg r = State.reset.reg r)
      ∧ t.pending = rest ∧ t.readData = s.readData

/-- `40_common.md` section 1: the command word at the head of the port is taken off it and the decoded
command runs. The port as a queue in State is the model's choice (log entry 1). -/
def Obligations.StepRunsTheDecodedCommand : Prop :=
  ∀ (s : State) (w : CmdWord) (i : Instr) (rest : List HostEvent),
    s.pending = .command w :: rest → decode w = .ok i → step s = exec i { s with pending := rest }

/-- `60_exceptions.md` section 4: between commands the block is idle and keeps all state. That a step with
an empty port is such an idle step is the model's choice (log entry 1). -/
def Obligations.IdleBlockKeepsAllState : Prop :=
  ∀ s : State, s.pending = [] → step s = .next s

/-- `20_memory.md` section 5, for the model's port (log entry 1): no command reads or writes the
port or the host's datum. The same command gives the same next state whatever stands there, and leaves it
there. -/
def Obligations.NoCommandTouchesThePort : Prop :=
  ∀ (i : Instr) (s t : State) (p : List HostEvent) (d : Word), exec i s = .next t →
    t.pending = s.pending ∧ t.readData = s.readData
      ∧ exec i { s with pending := p, readData := d } = .next { t with pending := p, readData := d }

/-! ## Encoding -/

/-- Every command decodes back from its word, with every operand at every value (formats of
`30_encoding.md`). -/
def Obligations.DecodeOfEncodeIsTheCommand : Prop :=
  ∀ i : Instr, decode (encode i) = .ok i

/-- A word that decodes is the encoding of what it decodes to: the decoder drops no bit. -/
def Obligations.EncodeOfDecodeIsTheWord : Prop :=
  ∀ (w : CmdWord) (i : Instr), decode w = .ok i → encode i = w

/-- The decoder accepts exactly the words that belong to a row of the opcode table. -/
def Obligations.LegalWordsAreTheTableRows : Prop :=
  ∀ w : CmdWord, wordWellFormed w = true ↔ ∃ i, decode w = .ok i

/-- The words of `95_test_vectors.md` decode to the commands they stand for, and the illegal ones are
rejected by name (a sanity statement). -/
def Obligations.WordsOfTheTestVectorsDecode : Prop :=
  decode 0x0000000000000000#64 = .ok .nop
    ∧ decode 0x0100000000000000#64 = .ok .crcInit
    ∧ decode 0x02000000000000F8#64 = .ok (.crcFeed 0xF8)
    ∧ decode 0x0300000000000101#64 = .ok (.crcBuf .rx 1)
    ∧ decode 0x0400000000000004#64 = .ok (.crcVerify .tx 4)
    ∧ decode 0x0500000000000108#64 = .ok (.crcAppend .rx 8)
    ∧ decode 0x1000F80400000001#64 = .ok (.buildReg 0xF8 0x04 0x0000 0x0001)
    ∧ decode 0x1100F80000000000#64 = .ok (.buildReset 0xF8)
    ∧ decode 0x21000000000000FD#64 = .ok (.rxPush 0xFD)
    ∧ decode 0x2200000000000019#64 = .ok (.parse 25)
    ∧ decode 0x3000000000000000#64 = .ok .decode
    ∧ decode 0x0600000000000000#64 = .error (.undefinedOpcode 0x06)
    ∧ decode 0x2200000000000119#64 = .error (.reservedBits "PARSE")
    ∧ decode 0x0300000000000200#64 = .error (.reservedBits "CRC_BUF")
    ∧ decode 0x1001000000000000#64 = .error (.reservedBits "BUILD_REG")

/-! ## Rules of the whole machine -/

/-- R150: every state and every word give exactly one next state, with no fault, stuck or refusal
outcome, and so does every command. -/
def Obligations.EveryWordGivesOneNextState : Prop :=
  (∀ (w : CmdWord) (s : State), ∃ t, runWord w s = .next t ∧ ∀ t', runWord w s = .next t' → t' = t)
    ∧ ∀ (i : Instr) (s : State), ∃ t, exec i s = .next t

/-- A step stops only on a host read of a byte that does not exist (log entry 10) or of `MEAS` while
`MV = 0` (`10_state.md` section 4); every other step answers a next state. -/
def Obligations.StepStopsOnlyOnABadHostRead : Prop :=
  ∀ s : State, SafeStep s ∨ ∃ r rest, s.pending = .read r :: rest ∧
    ((r.exists? = false ∧ step s = .fault .noSuchBufferByte)
      ∨ (r.isMeas = true ∧ s.mv = false ∧ step s = .fault .measBeforeDecode))

/-- R153: an illegal word ends in `BAD_OPCODE` (6) and changes nothing else; the all-ones word and
`CRC_INIT` with bit 0 set are illegal, `CRC_INIT` is not. -/
def Obligations.IllegalWordIsBadOpcode : Prop :=
  (∀ (w : CmdWord) (s : State), wordWellFormed w = false →
    ∃ t, runWord w s = .next t ∧ t.result = 6 ∧ KeepsFlags s t ∧ Keeps (fun r => r = .status) s t)
    ∧ wordWellFormed 0xFFFFFFFFFFFFFFFF#64 = false ∧ wordWellFormed 0x0100000000000001#64 = false
    ∧ wordWellFormed 0x0100000000000000#64 = true

/-- R155: every word, legal or illegal, writes `STATUS.RESULT`, and no word depends on the result before
it: whatever the last result was, the next state is the same. -/
def Obligations.ResultIsNotSticky : Prop :=
  ∀ (w : CmdWord) (s : State) (r : BitVec 4), runWord w (s.setResult r) = runWord w s

/-- R34: `CRC` is written by `CRC_INIT`, `CRC_FEED` and `CRC_BUF`, and no other command reads or writes
it: under any other command, whatever value `CRC` holds stays there and changes nothing else. -/
def Obligations.OnlyThreeCommandsTouchCrc : Prop :=
  (∀ s : State, ∃ t, exec .crcInit s = .next t ∧ t.crc = 0xFFFF)
    ∧ (∀ (b : Byte) (s : State), ∃ t, exec (.crcFeed b) s = .next t ∧ t.crc = crcStep s.crc b)
    ∧ (∀ (buf : Buf) (n : Byte) (s : State), n.toNat ≤ s.fill buf →
        ∃ t, exec (.crcBuf buf n) s = .next t ∧ t.crc = crc16 (memRead (s.buf buf) 0 n.toNat))
    ∧ ∀ (i : Instr) (s t : State) (c : Half),
        i ≠ .crcInit → (∀ b, i ≠ .crcFeed b) → (∀ buf n, i ≠ .crcBuf buf n) → exec i s = .next t →
        t.crc = s.crc ∧ exec i (s.setCrc c) = .next (t.setCrc c)

/-- `10_state.md` sections 3 and 4: a register that a command changes is one the command is named as a
writer of. -/
def Obligations.EachRegisterHasItsWriters : Prop :=
  ∀ (i : Instr) (s t : State), exec i s = .next t →
    (t.txlen ≠ s.txlen → (∃ a f r v, i = .buildReg a f r v) ∨ ∃ a, i = .buildReset a)
    ∧ ((∃ k, readByte t.tx k ≠ readByte s.tx k) →
        (∃ a f r v, i = .buildReg a f r v) ∨ (∃ a, i = .buildReset a) ∨ ∃ n, i = .crcAppend .tx n)
    ∧ ((∃ k, readByte t.rx k ≠ readByte s.rx k) →
        i = .rxClear ∨ (∃ b, i = .rxPush b) ∨ ∃ n, i = .crcAppend .rx n)
    ∧ (t.rxcnt ≠ s.rxcnt → i = .rxClear ∨ ∃ b, i = .rxPush b)
    ∧ (t.rxovf ≠ s.rxovf → (i = .rxClear ∧ t.rxovf = false) ∨ ∃ b, i = .rxPush b ∧ t.rxovf = true)
    ∧ (t.vok ≠ s.vok → ∃ buf n, i = .crcVerify buf n ∧ t.result ≠ 5)
    ∧ (t.deverr ≠ s.deverr → ∃ n, i = .parse n)
    ∧ (t.meas ≠ s.meas → i = .decode ∧ t.result = 0)

/-- R43: `MV` is 0 at reset; only a `DECODE` that succeeds sets it; no command clears it; while it is 0
the `MEAS` registers hold their reset values; and a read of `MEAS` while it is 0 is a fault. -/
def Obligations.MvMarksADecodedFrame : Prop :=
  State.reset.mv = false ∧ State.reset.meas = Meas.none
    ∧ (∀ (i : Instr) (s t : State), exec i s = .next t →
        (t.mv = true ↔ s.mv = true ∨ (i = .decode ∧ t.result = 0))
        ∧ ((s.mv = false → s.meas = Meas.none) → t.mv = false → t.meas = Meas.none))
    ∧ ∀ (r : HostReg) (s : State), r.isMeas = true → s.mv = false →
        hostRead r s = .error .measBeforeDecode

/-- R44: `PV` is 1 after a command exactly when the command is a `PARSE` that succeeds, or `PV` was 1 and
the command is not one that clears it; `ECHO_CHECK` and `DECODE` require it; and `PV = 1` means that the
payload is a frame that passed the checks, unchanged since. -/
def Obligations.PvMarksAValidatedPayload : Prop :=
  State.reset.PayloadOk ∧ ∀ (i : Instr) (s t : State), exec i s = .next t →
    (t.pv = true ↔ match i with
      | .parse _         => t.result = 0
      | .rxPush _        => False
      | .rxClear         => False
      | .crcAppend .rx _ => s.pv = true ∧ t.result = 5
      | _                => s.pv = true)
    ∧ (∀ n, i = .parse n → t.result = 0 → t.pvlen = n)
    ∧ (s.pv = false → i = .echoCheck ∨ i = .decode → t.result = 7)
    ∧ (s.PayloadOk → t.PayloadOk)

/-- `10_state.md` section 4: `PVLEN` holds the expected length of the `PARSE` that last set `PV`, is set to 0 whenever `PV` is
cleared, and is otherwise unchanged. -/
def Obligations.PvlenFollowsPv : Prop :=
  ∀ (i : Instr) (s t : State), exec i s = .next t →
    t.pvlen = match i with
      | .parse n         => if t.result = 0 then n else 0
      | .rxPush _        => 0
      | .rxClear         => 0
      | .crcAppend .rx _ => if t.result = 5 then s.pvlen else 0
      | _                => s.pvlen

/-- `20_memory.md` section 1: no command reads a byte outside the current frame. Two states that differ
only in buffer bytes at or beyond the fill end in the same registers, whatever the command. (The premise
is the meaning of `PV = 1`, which every command keeps by `PvMarksAValidatedPayload`; without it a state no
run reaches could hold a payload longer than the fill.) -/
def Obligations.NoCommandReadsBeyondTheFill : Prop :=
  ∀ (i : Instr) (s t : State) (tx rx : Memory), s.PayloadOk →
    (∀ k, k < s.fill .tx → readByte tx k = readByte s.tx k) →
    (∀ k, k < s.fill .rx → readByte rx k = readByte s.rx k) → exec i s = .next t →
    ∃ t', exec i { s with tx := tx, rx := rx } = .next t'
      ∧ (∀ r : HostReg, r.isByte = false → t'.reg r = t.reg r)
      ∧ (∀ k, k < s.fill .tx → readByte t'.tx k = readByte t.tx k)
      ∧ (∀ k, k < s.fill .rx → readByte t'.rx k = readByte t.rx k)

/-- Every step keeps the invariant of the block: canonical buffers, reserved values never held, unused
bytes zero, and the meanings of `PV`, `PVLEN`, `MV`, `RXOVF` and `DEVERR`. -/
def Obligations.EveryStepKeepsTheInvariant : Prop :=
  ∀ s t : State, s.Inv → step s = .next t → t.Inv

/-- The invariant holds right after reset, whatever the host will do (log entry 1 for the queue). -/
def Obligations.TheInvariantHoldsAtReset : Prop :=
  ∀ events : List HostEvent, State.Inv { State.reset with pending := events }

/-! ## The Checksum Engine -/

/-- `41_checksum.md` section 1, the table form, which the spec marks as derived: the printed table is `TABLE[i] = crc_step(0x0000, i)`, and the table form of the byte step is
the bit form on every accumulator and byte. -/
def Obligations.TableFormIsTheBitForm : Prop :=
  crcTableValues.length = 256 ∧ (∀ i : Byte, crcTable i = crcStep 0x0000 i)
    ∧ ∀ (c : Half) (b : Byte), crcStepTable c b = crcStep c b

/-- The laws (a) to (d) of `41_checksum.md` section 1, which the spec marks as derived: the round trip,
the short lists, `verify` as a fixed point of `append`, and the residue. -/
def Obligations.LawsOfVerifyAndAppend : Prop :=
  (∀ l : List Byte, 2 < l.length → ∃ m, append l = .ok m ∧ m.length = l.length ∧ verify m = true)
    ∧ (∀ l : List Byte, l.length ≤ 2 → verify l = false)
    ∧ (∀ l : List Byte, 2 < l.length → (verify l = true ↔ append l = .ok l))
    ∧ ∀ m : List Byte, crc16 (m ++ trailer (crc16 m)) = 0x0000

/-- `42_frame_codec.md`, the corner case of `ECHO_CHECK` the spec marks as derived: two frames of one
length that verify and have the same body have the same trailer. -/
def Obligations.SameBodySameTrailer : Prop :=
  ∀ l m : List Byte, verify l = true → verify m = true → l.length = m.length →
    l.take (l.length - 2) = m.take (m.length - 2) → l = m

/-- `41_checksum.md` section 1, streaming, which the spec marks as derived: `CRC_INIT` and one `CRC_FEED`
per byte leave `crc16` of the list in `CRC`, for a list of any length, and touch nothing else but the
result. -/
def Obligations.StreamingComputesCrc16 : Prop :=
  ∀ (bytes : List Byte) (s : State), ∃ t, execAll (expand (.crcBytes bytes)) s = .next t
    ∧ t.crc = crc16 bytes ∧ t.result = 0 ∧ KeepsFlags s t
    ∧ Keeps (fun r => r = .crc ∨ r = .status) s t

/-- R154: `NOP` is the zero word; it ends in `OK` and changes nothing else. -/
def Obligations.NopRule : Prop :=
  encode .nop = 0x0000000000000000#64
    ∧ ∀ s : State, ∃ t, exec .nop s = .next t ∧ t.result = 0 ∧ KeepsFlags s t
        ∧ Keeps (fun r => r = .status) s t

/-- R180: `CRC_INIT` writes 0xFFFF to `CRC`, ends in `OK`, changes nothing else, and is idempotent. -/
def Obligations.CrcInitRule : Prop :=
  encode .crcInit = 0x0100000000000000#64
    ∧ ∀ s : State, ∃ t, exec .crcInit s = .next t ∧ t.crc = 0xFFFF ∧ t.result = 0
        ∧ KeepsFlags s t ∧ Keeps (fun r => r = .crc ∨ r = .status) s t ∧ exec .crcInit t = .next t

/-- R181: `CRC_FEED b` updates `CRC` by one byte, ends in `OK` and changes nothing else; feeding 0xF8 and
0x42 from 0xFFFF leaves 0x41C2, and a zero byte still changes `CRC`. -/
def Obligations.CrcFeedRule : Prop :=
  (∀ b : Byte, encode (.crcFeed b) = 0x0200000000000000#64 ||| b.setWidth 64)
    ∧ (∀ (b : Byte) (s : State), ∃ t, exec (.crcFeed b) s = .next t ∧ t.crc = crcStep s.crc b
        ∧ t.result = 0 ∧ KeepsFlags s t ∧ Keeps (fun r => r = .crc ∨ r = .status) s t)
    ∧ crcStep (crcStep 0xFFFF 0xF8) 0x42 = 0x41C2 ∧ crc16 [0xF8, 0x42] = 0x41C2
    ∧ crcStep 0xFFFF 0x00 = 0x40BF

/-- R182: `CRC_BUF buf, n` beyond the fill is `BAD_LENGTH` (5) with `CRC` unchanged; otherwise `CRC`
becomes `crc16` of the first `n` bytes of the buffer, and the result is `OK`. -/
def Obligations.CrcBufRule : Prop :=
  ∀ (buf : Buf) (n : Byte),
    encode (.crcBuf buf n)
        = 0x0300000000000000#64 ||| ((bitOfBuf buf).setWidth 64 <<< 8) ||| n.setWidth 64
    ∧ ∀ s : State,
      (s.fill buf < n.toNat → ∃ t, exec (.crcBuf buf n) s = .next t ∧ t.result = 5
        ∧ KeepsFlags s t ∧ Keeps (fun r => r = .status) s t)
      ∧ (n.toNat ≤ s.fill buf → ∃ t, exec (.crcBuf buf n) s = .next t ∧ t.result = 0
        ∧ t.crc = crc16 (memRead (s.buf buf) 0 n.toNat)
        ∧ KeepsFlags s t ∧ Keeps (fun r => r = .crc ∨ r = .status) s t)

/-- R183: `CRC_VERIFY buf, n` beyond the fill is `BAD_LENGTH` (5) with `VOK` unchanged; otherwise `VOK` is
what `verify` says of the first `n` bytes and the result is `OK` or `BAD_CHECKSUM` (2); lengths up to 2
within the fill are `BAD_CHECKSUM`. -/
def Obligations.CrcVerifyRule : Prop :=
  ∀ (buf : Buf) (n : Byte),
    encode (.crcVerify buf n)
        = 0x0400000000000000#64 ||| ((bitOfBuf buf).setWidth 64 <<< 8) ||| n.setWidth 64
    ∧ ∀ s : State,
      (s.fill buf < n.toNat → ∃ t, exec (.crcVerify buf n) s = .next t ∧ t.result = 5
        ∧ KeepsFlags s t ∧ Keeps (fun r => r = .status) s t)
      ∧ (n.toNat ≤ s.fill buf → ∃ t, exec (.crcVerify buf n) s = .next t
        ∧ t.vok = verify (memRead (s.buf buf) 0 n.toNat)
        ∧ t.result = (if verify (memRead (s.buf buf) 0 n.toNat) then 0 else 2)
        ∧ (n.toNat ≤ 2 → t.vok = false ∧ t.result = 2)
        ∧ t.pv = s.pv ∧ t.mv = s.mv ∧ t.rxovf = s.rxovf ∧ Keeps (fun r => r = .status) s t)

/-- R184: `CRC_APPEND buf, n` with `n < 2` or beyond the fill is `BAD_LENGTH` (5) with no byte written;
otherwise bytes `n-2` and `n-1` of the buffer become the checksum of the bytes before them, low byte
first, and a write to `RX` clears `PV` and `PVLEN`. -/
def Obligations.CrcAppendRule : Prop :=
  ∀ (buf : Buf) (n : Byte),
    encode (.crcAppend buf n)
        = 0x0500000000000000#64 ||| ((bitOfBuf buf).setWidth 64 <<< 8) ||| n.setWidth 64
    ∧ ∀ s : State,
      (s.fill buf < n.toNat ∨ n.toNat < 2 → ∃ t, exec (.crcAppend buf n) s = .next t ∧ t.result = 5
        ∧ KeepsFlags s t ∧ Keeps (fun r => r = .status) s t)
      ∧ (n.toNat ≤ s.fill buf → 2 ≤ n.toNat → ∃ t, exec (.crcAppend buf n) s = .next t ∧ t.result = 0
        ∧ readByte (t.buf buf) (n.toNat - 2)
            = (crc16 (memRead (s.buf buf) 0 (n.toNat - 2))).extractLsb' 0 8
        ∧ readByte (t.buf buf) (n.toNat - 1)
            = (crc16 (memRead (s.buf buf) 0 (n.toNat - 2))).extractLsb' 8 8
        ∧ (buf = .rx → t.pv = false ∧ t.pvlen = 0)
        ∧ (buf = .tx → t.pv = s.pv)
        ∧ t.vok = s.vok ∧ t.mv = s.mv ∧ t.rxovf = s.rxovf
        ∧ Keeps (fun r => r = .status ∨ (buf = .rx ∧ r = .pvlen)
            ∨ r = byteOf buf (n.toNat - 2) ∨ r = byteOf buf (n.toNat - 1)) s t)

/-- `95_test_vectors.md` S2 as commands: `CRC_APPEND buf, n` and then `CRC_VERIFY buf, n`, for a length
of at least 3 within the fill, end in `OK` with `VOK = 1`. -/
def Obligations.AppendedTrailerVerifies : Prop :=
  ∀ (buf : Buf) (n : Byte) (s : State), n.toNat ≤ s.fill buf → 3 ≤ n.toNat →
    ∃ t, execAll [.crcAppend buf n, .crcVerify buf n] s = .next t ∧ t.result = 0 ∧ t.vok = true

/-- `41_checksum.md` section 2, a corner case the spec marks as derived: applied to a whole built frame,
`CRC_APPEND` rewrites the same trailer and leaves every byte of `TX` as it was. -/
def Obligations.AppendKeepsABuiltFrame : Prop :=
  (∀ (addr func : Byte) (reg val : Half) (s : State), ∃ t u,
      exec (.buildReg addr func reg val) s = .next t ∧ exec (.crcAppend .tx 8) t = .next u
      ∧ u.result = 0 ∧ ∀ k, readByte u.tx k = readByte t.tx k)
    ∧ ∀ (addr : Byte) (s : State), ∃ t u,
      exec (.buildReset addr) s = .next t ∧ exec (.crcAppend .tx 4) t = .next u
      ∧ u.result = 0 ∧ ∀ k, readByte u.tx k = readByte t.tx k

/-! ## The Frame Codec -/

/-- R200: `BUILD_REG` builds the 8-byte register frame in `TX`, big-endian fields, the checksum of the six
header bytes low byte first; `TXLEN` becomes 8, the result is `OK`, nothing else changes. -/
def Obligations.BuildRegRule : Prop :=
  ∀ (addr func : Byte) (reg val : Half),
    encode (.buildReg addr func reg val)
        = 0x1000000000000000#64 ||| (addr.setWidth 64 <<< 40) ||| (func.setWidth 64 <<< 32)
          ||| (reg.setWidth 64 <<< 16) ||| val.setWidth 64
    ∧ ∀ s : State, ∃ t, exec (.buildReg addr func reg val) s = .next t
      ∧ memRead t.tx 0 6 = [addr, func, reg.extractLsb' 8 8, reg.extractLsb' 0 8,
          val.extractLsb' 8 8, val.extractLsb' 0 8]
      ∧ readByte t.tx 6 = (crc16 (memRead t.tx 0 6)).extractLsb' 0 8
      ∧ readByte t.tx 7 = (crc16 (memRead t.tx 0 6)).extractLsb' 8 8
      ∧ t.txlen.toNat = 8 ∧ t.result = 0 ∧ KeepsFlags s t
      ∧ Keeps (fun r => r = .status ∨ r = .txlen ∨ ∃ k, k < 8 ∧ r = .tx k) s t

/-- `42_frame_codec.md` section 1: `BUILD_RESET` builds the 4-byte reset frame in `TX[0..3]`, zeros in
`TX[4..7]`, `TXLEN` 4, result `OK`, nothing else changed (R201's pseudocode). The `append` clause formalises
the rule's sentence "The result is the same as writing the placeholders and then applying `append` (rule
R174) over 4 bytes", which the spec marks as derived from R174: an inference the spec marks as its own. -/
def Obligations.BuildResetRule : Prop :=
  ∀ addr : Byte,
    encode (.buildReset addr) = 0x1100000000000000#64 ||| (addr.setWidth 64 <<< 40)
    ∧ ∀ s : State, ∃ t, exec (.buildReset addr) s = .next t
      ∧ memRead t.tx 0 8 = [addr, 0x42, (crc16 [addr, 0x42]).extractLsb' 0 8,
          (crc16 [addr, 0x42]).extractLsb' 8 8, 0x00, 0x00, 0x00, 0x00]
      ∧ append [addr, 0x42, 0x00, 0x00] = .ok (memRead t.tx 0 4)
      ∧ t.txlen.toNat = 4 ∧ t.result = 0 ∧ KeepsFlags s t
      ∧ Keeps (fun r => r = .status ∨ r = .txlen ∨ ∃ k, k < 8 ∧ r = .tx k) s t

/-- Section 1 of `42_frame_codec.md` with section 2 of `41_checksum.md`: a frame the block built passes
`CRC_VERIFY` over its whole length. -/
def Obligations.BuiltFramesVerify : Prop :=
  (∀ (addr func : Byte) (reg val : Half) (s : State), ∃ t,
      execAll [.buildReg addr func reg val, .crcVerify .tx 8] s = .next t
      ∧ t.result = 0 ∧ t.vok = true)
    ∧ ∀ (addr : Byte) (s : State), ∃ t,
      execAll [.buildReset addr, .crcVerify .tx 4] s = .next t ∧ t.result = 0 ∧ t.vok = true

/-- R202: `RX_CLEAR` zeroes `RX`, `RXCNT`, `RXOVF`, `PV` and `PVLEN`, ends in `OK`, changes nothing else
and is idempotent. -/
def Obligations.RxClearRule : Prop :=
  encode .rxClear = 0x2000000000000000#64
    ∧ ∀ s : State, ∃ t, exec .rxClear s = .next t ∧ (∀ k, readByte t.rx k = 0x00) ∧ t.rxcnt = 0
      ∧ t.fill .rx = 0 ∧ t.rxovf = false ∧ t.pv = false ∧ t.pvlen = 0 ∧ t.result = 0
      ∧ t.vok = s.vok ∧ t.mv = s.mv
      ∧ Keeps (fun r => r = .status ∨ r = .rxcnt ∨ r = .pvlen ∨ ∃ k, r = .rx k) s t
      ∧ exec .rxClear t = .next t

/-- R203: `RX_PUSH b` stores the byte at `RX[RXCNT]` while `RXCNT < RXCAP` (25), otherwise stores nothing
and sets `RXOVF`; `RXCNT` advances and saturates at 255; `PV` and `PVLEN` are cleared; the result is
`OK`. -/
def Obligations.RxPushRule : Prop :=
  ∀ b : Byte,
    encode (.rxPush b) = 0x2100000000000000#64 ||| b.setWidth 64
    ∧ ∀ s : State, ∃ t, exec (.rxPush b) s = .next t
      ∧ t.rxcnt.toNat = min (s.rxcnt.toNat + 1) 255
      ∧ (s.rxcnt.toNat < 25 → readByte t.rx s.rxcnt.toNat = b ∧ t.rxovf = s.rxovf)
      ∧ (25 ≤ s.rxcnt.toNat → readByte t.rx s.rxcnt.toNat = readByte s.rx s.rxcnt.toNat
          ∧ t.rxovf = true)
      ∧ t.pv = false ∧ t.pvlen = 0 ∧ t.result = 0 ∧ t.vok = s.vok ∧ t.mv = s.mv
      ∧ Keeps (fun r => r = .status ∨ r = .rxcnt ∨ r = .pvlen ∨ r = .rx s.rxcnt.toNat) s t

/-- `10_state.md` section 3 and `30_encoding.md` (the pseudo-command `RX_LOAD`): loading a list of bytes of
any length leaves its first 25 bytes in `RX` in arrival order, the count saturated at 255, and `RXOVF` set
exactly when there were more than 25. -/
def Obligations.RxLoadCollectsTheBytes : Prop :=
  ∀ (bytes : List Byte) (s : State), ∃ t, execAll (expand (.rxLoad bytes)) s = .next t
    ∧ (∀ k, readByte t.rx k = if k < 25 then bytes.getD k 0 else 0)
    ∧ t.rxcnt.toNat = min bytes.length 255 ∧ t.rxovf = decide (25 < bytes.length)
    ∧ t.pv = false ∧ t.pvlen = 0 ∧ t.result = 0 ∧ t.vok = s.vok ∧ t.mv = s.mv
    ∧ Keeps (fun r => r = .status ∨ r = .rxcnt ∨ r = .pvlen ∨ ∃ k, r = .rx k) s t

/-- R204, R206: `PARSE n` checks in order the capacity, the count, the checksum and the error marker
(bit 7 of `RX[1]`), with the results 5, 1, 2 and 3; a device error records its code and its kind in
`DEVERR`; success sets `PV` and `PVLEN`. Every other outcome leaves `PV`, `PVLEN` and `DEVERR` zero. -/
def Obligations.ParseRule : Prop :=
  ∀ n : Byte,
    encode (.parse n) = 0x2200000000000000#64 ||| n.setWidth 64
    ∧ ∀ s : State, ∃ t, exec (.parse n) s = .next t
      ∧ t.vok = s.vok ∧ t.mv = s.mv ∧ t.rxovf = s.rxovf
      ∧ Keeps (fun r => r = .status ∨ r = .pvlen ∨ r = .deverr) s t
      ∧ (if 25 < n.toNat then
          t.result = 5 ∧ t.pv = false ∧ t.pvlen = 0 ∧ t.deverr = 0x0000
        else if s.rxcnt ≠ n then
          t.result = 1 ∧ t.pv = false ∧ t.pvlen = 0 ∧ t.deverr = 0x0000
        else if verify (memRead s.rx 0 n.toNat) = false then
          t.result = 2 ∧ t.pv = false ∧ t.pvlen = 0 ∧ t.deverr = 0x0000
        else if (readByte s.rx 1).getLsbD 7 = true then
          t.result = 3 ∧ t.pv = false ∧ t.pvlen = 0
          ∧ t.deverr.extractLsb' 0 8 = readByte s.rx 2
          ∧ t.deverr.extractLsb' 8 3 = (if readByte s.rx 2 = 0x01 then 1 else
              if readByte s.rx 2 = 0x02 then 2 else if readByte s.rx 2 = 0x03 then 3 else
              if readByte s.rx 2 = 0x04 then 4 else 5)
          ∧ t.deverr.extractLsb' 11 5 = 0
        else
          t.result = 0 ∧ t.pv = true ∧ t.pvlen = n ∧ t.deverr = 0x0000)

/-- R205: `ECHO_CHECK` ends in `NOT_VALIDATED` (7) without a validated payload, in `ECHO_MISMATCH` (4)
when the lengths or any byte differ, and in `OK` otherwise; it changes nothing but the result. -/
def Obligations.EchoCheckRule : Prop :=
  encode .echoCheck = 0x2300000000000000#64
    ∧ ∀ s : State, ∃ t, exec .echoCheck s = .next t ∧ KeepsFlags s t
      ∧ Keeps (fun r => r = .status) s t
      ∧ (s.pv = false → t.result = 7)
      ∧ (s.pv = true → s.pvlen.toNat ≠ s.txlen.toNat → t.result = 4)
      ∧ (s.pv = true → s.pvlen.toNat = s.txlen.toNat →
          (∃ k, k < s.txlen.toNat ∧ readByte s.rx k ≠ readByte s.tx k) → t.result = 4)
      ∧ (s.pv = true → s.pvlen.toNat = s.txlen.toNat →
          (∀ k, k < s.txlen.toNat → readByte s.rx k = readByte s.tx k) → t.result = 0)

/-! ## The Register Decoder -/

/-- R250, R75: `DECODE` ends in `NOT_VALIDATED` (7) or `BAD_LENGTH` (5) with nothing else changed,
or writes all seven `MEAS` registers by the expressions of R250 and R75 and sets `MV`; a second `DECODE` of the
same frame changes nothing. -/
def Obligations.DecodeRule : Prop :=
  encode .decode = 0x3000000000000000#64
    ∧ ∀ s : State,
      (s.pv = false → ∃ t, exec .decode s = .next t ∧ t.result = 7 ∧ KeepsFlags s t
        ∧ Keeps (fun r => r = .status) s t)
      ∧ (s.pv = true → s.pvlen.toNat ≠ 25 → ∃ t, exec .decode s = .next t ∧ t.result = 5
        ∧ KeepsFlags s t ∧ Keeps (fun r => r = .status) s t)
      ∧ (s.pv = true → s.pvlen.toNat = 25 → ∃ t, exec .decode s = .next t ∧ t.result = 0
        ∧ t.mv = true ∧ t.vok = s.vok ∧ t.pv = true ∧ t.rxovf = s.rxovf
        ∧ Keeps (fun r => r = .status ∨ r.isMeas = true) s t
        ∧ t.meas.v = (readByte s.rx 3).setWidth 16 <<< 8 ||| (readByte s.rx 4).setWidth 16
        ∧ t.meas.i = (readByte s.rx 5).setWidth 32 <<< 8 ||| (readByte s.rx 6).setWidth 32
            ||| (readByte s.rx 7).setWidth 32 <<< 24 ||| (readByte s.rx 8).setWidth 32 <<< 16
        ∧ t.meas.p = (readByte s.rx 9).setWidth 32 <<< 8 ||| (readByte s.rx 10).setWidth 32
            ||| (readByte s.rx 11).setWidth 32 <<< 24 ||| (readByte s.rx 12).setWidth 32 <<< 16
        ∧ t.meas.e = (readByte s.rx 13).setWidth 32 <<< 8 ||| (readByte s.rx 14).setWidth 32
            ||| (readByte s.rx 15).setWidth 32 <<< 24 ||| (readByte s.rx 16).setWidth 32 <<< 16
        ∧ t.meas.f = (readByte s.rx 17).setWidth 16 <<< 8 ||| (readByte s.rx 18).setWidth 16
        ∧ t.meas.pf = (readByte s.rx 19).setWidth 16 <<< 8 ||| (readByte s.rx 20).setWidth 16
        ∧ t.meas.al = (readByte s.rx 21).setWidth 16 <<< 8 ||| (readByte s.rx 22).setWidth 16
        ∧ exec .decode t = .next t)

/-- `43_register_decoder.md` section 3: while `MV = 1` each scaled value is the exact rational whose product
with the divisor is the raw value, and the alarm register is read unscaled (R252's own words). The bounds
formalise the rule's sentence "The range of each scaled value is `0 .. (2^width - 1) / divisor`", which the
spec marks as derived from R250 and R252: an inference the spec marks as its own. -/
def Obligations.ScaledValuesAreExact : Prop :=
  ∀ s : State, s.mv = true →
    hostRead .measAL s = .ok (s.meas.al.setWidth 32)
    ∧ (∃ x, scaledValue .voltage s = .ok x ∧ x * 10 = (s.meas.v.toNat : Rat) ∧ 0 ≤ x ∧ x ≤ 65535 / 10)
    ∧ (∃ x, scaledValue .current s = .ok x ∧ x * 1000 = (s.meas.i.toNat : Rat) ∧ 0 ≤ x
        ∧ x ≤ 4294967295 / 1000)
    ∧ (∃ x, scaledValue .power s = .ok x ∧ x * 10 = (s.meas.p.toNat : Rat) ∧ 0 ≤ x
        ∧ x ≤ 4294967295 / 10)
    ∧ (∃ x, scaledValue .energy s = .ok x ∧ x * 1000 = (s.meas.e.toNat : Rat) ∧ 0 ≤ x
        ∧ x ≤ 4294967295 / 1000)
    ∧ (∃ x, scaledValue .frequency s = .ok x ∧ x * 10 = (s.meas.f.toNat : Rat) ∧ 0 ≤ x
        ∧ x ≤ 65535 / 10)
    ∧ ∃ x, scaledValue .powerFactor s = .ok x ∧ x * 100 = (s.meas.pf.toNat : Rat) ∧ 0 ≤ x
        ∧ x ≤ 65535 / 100

/-- `43_register_decoder.md` section 3: the alarm register reads as inactive at 0x0000, as active at 0xFFFF, and as neither at any other
value, where the reading is refused (log entry 14). -/
def Obligations.AlarmReadsAsTwoStatesOnly : Prop :=
  ∀ s : State, s.mv = true →
    (alarmState s = .next .inactive ↔ s.meas.al = 0x0000)
    ∧ (alarmState s = .next .active ↔ s.meas.al = 0xFFFF)
    ∧ (s.meas.al ≠ 0x0000 → s.meas.al ≠ 0xFFFF → alarmState s = .refused .alarmUndefined)

/-! ## The host's reads -/

/-- `10_state.md` section 1: a host read returns the register's value and has no side effect on any
register. The read as a host event and the place of the value are the model's choice (log entry 4). -/
def Obligations.HostReadReturnsAndKeeps : Prop :=
  ∀ (s : State) (r : HostReg) (rest : List HostEvent), s.pending = .read r :: rest →
    r.exists? = true → (r.isMeas = true → s.mv = true) →
    ∃ t, step s = .next t ∧ t.readData = s.reg r ∧ (∀ r' : HostReg, t.reg r' = s.reg r')
      ∧ t.pending = rest

/-- `10_state.md` section 4 and `20_memory.md` section 1: a host read of `MEAS` while `MV = 0` faults, and
so does, by the model's choice (log entry 10), one of a buffer byte that does not exist. -/
def Obligations.BadHostReadFaults : Prop :=
  ∀ (s : State) (r : HostReg) (rest : List HostEvent), s.pending = .read r :: rest →
    (r.isMeas = true → s.mv = false → step s = .fault .measBeforeDecode)
    ∧ (∀ k, 8 ≤ k → r = .tx k → step s = .fault .noSuchBufferByte)
    ∧ (∀ k, 25 ≤ k → r = .rx k → step s = .fault .noSuchBufferByte)

/-! ## The host's sequences -/

/-- `70_reset_and_hazards.md` section 3, measurement read, for a reply of any bytes and any length: the
sequence ends in `OK` exactly when the reply has 25 bytes, verifies, and has its marker clear; then `MEAS`
holds the reply's fields, and otherwise `MEAS` is unchanged (section 4, failure isolation). The form of the
sequence is the model's choice (log entry 15): one list of commands whose reply bytes and their count are
free, with `DECODE` issued also after a `PARSE` that failed, where R334 has the host stop. -/
def Obligations.MeasurementReadIsSound : Prop :=
  ∀ (addr : Byte) (reply : List Byte) (s : State),
    ∃ t, execAll (measurementRead addr reply) s = .next t
      ∧ (t.result = 0 ↔ reply.length = 25 ∧ verify reply = true ∧ (reply.getD 1 0).getLsbD 7 = false)
      ∧ (t.result ≠ 0 → t.meas = s.meas ∧ t.mv = s.mv)
      ∧ (t.result = 0 → t.mv = true
        ∧ t.meas.v = reply.getD 3 0 ++ reply.getD 4 0
        ∧ t.meas.i = reply.getD 7 0 ++ reply.getD 8 0 ++ reply.getD 5 0 ++ reply.getD 6 0
        ∧ t.meas.p = reply.getD 11 0 ++ reply.getD 12 0 ++ reply.getD 9 0 ++ reply.getD 10 0
        ∧ t.meas.e = reply.getD 15 0 ++ reply.getD 16 0 ++ reply.getD 13 0 ++ reply.getD 14 0
        ∧ t.meas.f = reply.getD 17 0 ++ reply.getD 18 0
        ∧ t.meas.pf = reply.getD 19 0 ++ reply.getD 20 0
        ∧ t.meas.al = reply.getD 21 0 ++ reply.getD 22 0)

/-- `70_reset_and_hazards.md` section 3, register write with echo verification, for a reply of any bytes
and any length: the sequence ends in `OK` exactly when the reply is the request frame, byte for byte. The
form of the sequence is the model's choice (log entry 15): one list of commands, R335's 8 pushes widened
to a reply of any length, with `ECHO_CHECK` issued whatever `PARSE` gave. -/
def Obligations.RegisterWriteSucceedsOnlyOnTheEcho : Prop :=
  ∀ (addr : Byte) (reg val : Half) (reply : List Byte) (s : State),
    ∃ t, execAll (registerWrite addr reg val reply) s = .next t
      ∧ (t.result = 0 ↔ reply = [addr, 0x06, reg.extractLsb' 8 8, reg.extractLsb' 0 8,
          val.extractLsb' 8 8, val.extractLsb' 0 8]
          ++ trailer (crc16 [addr, 0x06, reg.extractLsb' 8 8, reg.extractLsb' 0 8,
            val.extractLsb' 8 8, val.extractLsb' 0 8]))
end

