-- ==== Sys2Proof/Laws/Bits.lean ====
section
/-! SUPPORT. Fields of a concatenation: a field that lies in the low part or in the high part of `x ++ y`
is a field of that part. The formats, `STATUS` and `DEVERR` are concatenations, so their field laws are
these. -/

namespace Sys2Proof

/-- A field below the seam. -/
theorem extract_append_low {w v : Nat} (x : BitVec w) (y : BitVec v) (k n : Nat) (h : k + n ≤ v) :
    (x ++ y).extractLsb' k n = y.extractLsb' k n := by
  ext i hi
  simp [BitVec.getLsbD_append, show k + i < v by omega]

/-- A field above the seam. -/
theorem extract_append_high {w v : Nat} (x : BitVec w) (y : BitVec v) (k n : Nat) (h : v ≤ k) :
    (x ++ y).extractLsb' k n = x.extractLsb' (k - v) n := by
  ext i hi
  simp [BitVec.getLsbD_append, show ¬ k + i < v by omega, show k + i - v = k - v + i by omega]

/-- The whole of a value as a field. -/
theorem extract_all {w : Nat} (x : BitVec w) : x.extractLsb' 0 w = x := by
  ext i hi
  simp

/-- A bit above the seam. -/
theorem getLsbD_append_high {w v : Nat} (x : BitVec w) (y : BitVec v) (k : Nat) (h : v ≤ k) :
    (x ++ y).getLsbD k = x.getLsbD (k - v) := by
  simp [BitVec.getLsbD_append, Nat.not_lt.mpr h]

/-- Two 16-bit values with the same two bytes are equal. -/
theorem half_ext {x y : Half} (hlo : x.extractLsb' 0 8 = y.extractLsb' 0 8)
    (hhi : x.extractLsb' 8 8 = y.extractLsb' 8 8) : x = y := by
  apply BitVec.eq_of_getLsbD_eq
  intro i hi
  by_cases h : i < 8
  · have := congrArg (fun b : BitVec 8 => b.getLsbD i) hlo
    simpa [h] using this
  · have := congrArg (fun b : BitVec 8 => b.getLsbD (i - 8)) hhi
    simpa [show i - 8 < 8 by omega, show 8 + (i - 8) = i by omega] using this

/-- A 16-bit value is its high byte above its low byte. -/
theorem hi_append_lo (x : Half) : x.extractLsb' 8 8 ++ x.extractLsb' 0 8 = x := by
  apply half_ext
  · exact (extract_append_low _ _ 0 8 (by decide)).trans (extract_all _)
  · exact (extract_append_high _ _ 8 8 (by decide)).trans (extract_all _)

end Sys2Proof
end

