-- ==== Sys2Proof/Laws/Codec.lean ====
section
/-! SUPPORT. The bits of an encoded word, format by format (`30_encoding.md` R101 to R106), and the
fields the decoder reads out of it. -/

namespace Sys2Proof

@[simp] theorem bufOfBit_bitOfBuf (b : Buf) : bufOfBit (bitOfBuf b) = b := by cases b <;> rfl

theorem bitOfBuf_bufOfBit (s : BitVec 1) : bitOfBuf (bufOfBit s) = s := by revert s; decide

/-! ## The bits of each format -/

theorem encodeN_bit (op : Byte) (i : Nat) :
    (encodeN op).getLsbD i = if i < 56 then false else op.getLsbD (i - 56) := by
  show (op ++ 0#56 : BitVec (8 + 56)).getLsbD i = _
  simp only [BitVec.getLsbD_append, BitVec.getLsbD_zero]

theorem encodeB_bit (op b : Byte) (i : Nat) :
    (encodeB op b).getLsbD i
      = if i < 8 then b.getLsbD i else if i < 56 then false else op.getLsbD (i - 56) := by
  show (op ++ 0#48 ++ b : BitVec (8 + 48 + 8)).getLsbD i = _
  simp only [BitVec.getLsbD_append, BitVec.getLsbD_zero, Nat.sub_sub]
  by_cases h : i < 8
  · simp [h]
  · by_cases h' : i < 56
    · simp [h, h', show i - 8 < 48 by omega]
    · simp [h, h', show ¬ i - 8 < 48 by omega]

theorem encodeS_bit (op : Byte) (buf : Buf) (n : Byte) (i : Nat) :
    (encodeS op buf n).getLsbD i
      = if i < 8 then n.getLsbD i else if i < 9 then (bitOfBuf buf).getLsbD (i - 8)
        else if i < 56 then false else op.getLsbD (i - 56) := by
  show (op ++ 0#47 ++ bitOfBuf buf ++ n : BitVec (8 + 47 + 1 + 8)).getLsbD i = _
  simp only [BitVec.getLsbD_append, BitVec.getLsbD_zero, Nat.sub_sub]
  by_cases h : i < 8
  · simp [h]
  · by_cases h1 : i < 9
    · simp [h, h1, show i - 8 < 1 by omega]
    · by_cases h' : i < 56
      · simp [h, h1, h', show ¬ i - 8 < 1 by omega, show i - (8 + 1) < 47 by omega]
      · simp [h, h1, h', show ¬ i - 8 < 1 by omega, show ¬ i - (8 + 1) < 47 by omega]

theorem encodeF_bit (op addr func : Byte) (reg val : Half) (i : Nat) :
    (encodeF op addr func reg val).getLsbD i
      = if i < 16 then val.getLsbD i else if i < 32 then reg.getLsbD (i - 16)
        else if i < 40 then func.getLsbD (i - 32) else if i < 48 then addr.getLsbD (i - 40)
        else if i < 56 then false else op.getLsbD (i - 56) := by
  show (op ++ 0#8 ++ addr ++ func ++ reg ++ val : BitVec (8 + 8 + 8 + 8 + 16 + 16)).getLsbD i = _
  simp only [BitVec.getLsbD_append, BitVec.getLsbD_zero, Nat.sub_sub]
  by_cases h : i < 16
  · simp [h]
  · by_cases h1 : i < 32
    · simp [h, h1, show i - 16 < 16 by omega]
    · by_cases h2 : i < 40
      · simp [h, h1, h2, show ¬ i - 16 < 16 by omega, show i - (16 + 16) < 8 by omega]
      · by_cases h3 : i < 48
        · simp [h, h1, h2, h3, show ¬ i - 16 < 16 by omega, show ¬ i - (16 + 16) < 8 by omega,
            show i - (16 + 16 + 8) < 8 by omega]
        · by_cases h4 : i < 56
          · simp [h, h1, h2, h3, h4, show ¬ i - 16 < 16 by omega, show ¬ i - (16 + 16) < 8 by omega,
              show ¬ i - (16 + 16 + 8) < 8 by omega, show i - (16 + 16 + 8 + 8) < 8 by omega]
          · simp [h, h1, h2, h3, h4, show ¬ i - 16 < 16 by omega, show ¬ i - (16 + 16) < 8 by omega,
              show ¬ i - (16 + 16 + 8) < 8 by omega, show ¬ i - (16 + 16 + 8 + 8) < 8 by omega]

theorem encodeA_bit (op addr : Byte) (i : Nat) :
    (encodeA op addr).getLsbD i
      = if i < 40 then false else if i < 48 then addr.getLsbD (i - 40)
        else if i < 56 then false else op.getLsbD (i - 56) := by
  show (op ++ 0#8 ++ addr ++ 0#40 : BitVec (8 + 8 + 8 + 40)).getLsbD i = _
  simp only [BitVec.getLsbD_append, BitVec.getLsbD_zero, Nat.sub_sub]
  by_cases h : i < 40
  · simp [h]
  · by_cases h1 : i < 48
    · simp [h, h1, show i - 40 < 8 by omega]
    · by_cases h2 : i < 56
      · simp [h, h1, h2, show ¬ i - 40 < 8 by omega, show i - (40 + 8) < 8 by omega]
      · simp [h, h1, h2, show ¬ i - 40 < 8 by omega, show ¬ i - (40 + 8) < 8 by omega]

/-! ## The operation field and the decoder's choice -/

/-- A field of a word, read bit by bit. -/
theorem field_eq {w : CmdWord} {k n : Nat} {v : BitVec n}
    (h : ∀ i, i < n → w.getLsbD (k + i) = v.getLsbD i) : w.extractLsb' k n = v := by
  apply BitVec.eq_of_getLsbD_eq
  intro i hi
  simp [hi, h i hi]

@[simp] theorem opField_encodeN (op : Byte) : opField (encodeN op) = op :=
  field_eq fun i _ => by rw [encodeN_bit]; simp

@[simp] theorem opField_encodeB (op b : Byte) : opField (encodeB op b) = op :=
  field_eq fun i _ => by rw [encodeB_bit]; simp [show ¬ 56 + i < 8 by omega]

@[simp] theorem opField_encodeS (op : Byte) (buf : Buf) (n : Byte) :
    opField (encodeS op buf n) = op :=
  field_eq fun i _ => by
    rw [encodeS_bit]; simp [show ¬ 56 + i < 8 by omega, show ¬ 56 + i < 9 by omega]

@[simp] theorem opField_encodeF (op addr func : Byte) (reg val : Half) :
    opField (encodeF op addr func reg val) = op :=
  field_eq fun i _ => by
    rw [encodeF_bit]
    simp [show ¬ 56 + i < 16 by omega, show ¬ 56 + i < 32 by omega, show ¬ 56 + i < 40 by omega,
      show ¬ 56 + i < 48 by omega]

@[simp] theorem opField_encodeA (op addr : Byte) : opField (encodeA op addr) = op :=
  field_eq fun i _ => by
    rw [encodeA_bit]; simp [show ¬ 56 + i < 40 by omega, show ¬ 56 + i < 48 by omega]

/-! ## The fields of each format -/

@[simp] theorem encodeN_zero (op : Byte) : (encodeN op).extractLsb' 0 56 = 0 :=
  field_eq fun i hi => by rw [encodeN_bit]; simp [hi]

@[simp] theorem encodeB_zero (op b : Byte) : (encodeB op b).extractLsb' 8 48 = 0 :=
  field_eq fun i hi => by rw [encodeB_bit]; simp [show 8 + i < 56 by omega]

@[simp] theorem encodeB_byte (op b : Byte) : (encodeB op b).extractLsb' 0 8 = b :=
  field_eq fun i hi => by rw [encodeB_bit]; simp [hi]

@[simp] theorem encodeS_zero (op : Byte) (buf : Buf) (n : Byte) :
    (encodeS op buf n).extractLsb' 9 47 = 0 :=
  field_eq fun i hi => by
    rw [encodeS_bit]; simp [show 9 + i < 56 by omega, show ¬ 9 + i < 8 by omega]

@[simp] theorem encodeS_select (op : Byte) (buf : Buf) (n : Byte) :
    (encodeS op buf n).extractLsb' 8 1 = bitOfBuf buf :=
  field_eq fun i hi => by rw [encodeS_bit]; simp [show 8 + i < 9 by omega]

@[simp] theorem encodeS_length (op : Byte) (buf : Buf) (n : Byte) :
    (encodeS op buf n).extractLsb' 0 8 = n :=
  field_eq fun i hi => by rw [encodeS_bit]; simp [hi]

@[simp] theorem encodeF_zero (op addr func : Byte) (reg val : Half) :
    (encodeF op addr func reg val).extractLsb' 48 8 = 0 :=
  field_eq fun i hi => by
    rw [encodeF_bit]
    simp [show ¬ 48 + i < 16 by omega, show ¬ 48 + i < 32 by omega, show ¬ 48 + i < 40 by omega,
      show 48 + i < 56 by omega]

@[simp] theorem encodeF_addr (op addr func : Byte) (reg val : Half) :
    (encodeF op addr func reg val).extractLsb' 40 8 = addr :=
  field_eq fun i hi => by
    rw [encodeF_bit]
    simp [show ¬ 40 + i < 16 by omega, show ¬ 40 + i < 32 by omega, show 40 + i < 48 by omega]

@[simp] theorem encodeF_func (op addr func : Byte) (reg val : Half) :
    (encodeF op addr func reg val).extractLsb' 32 8 = func :=
  field_eq fun i hi => by
    rw [encodeF_bit]; simp [show ¬ 32 + i < 16 by omega, show 32 + i < 40 by omega]

@[simp] theorem encodeF_reg (op addr func : Byte) (reg val : Half) :
    (encodeF op addr func reg val).extractLsb' 16 16 = reg :=
  field_eq fun i hi => by rw [encodeF_bit]; simp [show 16 + i < 32 by omega]

@[simp] theorem encodeF_val (op addr func : Byte) (reg val : Half) :
    (encodeF op addr func reg val).extractLsb' 0 16 = val :=
  field_eq fun i hi => by rw [encodeF_bit]; simp [hi]

@[simp] theorem encodeA_high (op addr : Byte) : (encodeA op addr).extractLsb' 48 8 = 0 :=
  field_eq fun i hi => by
    rw [encodeA_bit]; simp [show ¬ 48 + i < 40 by omega, show 48 + i < 56 by omega]

@[simp] theorem encodeA_low (op addr : Byte) : (encodeA op addr).extractLsb' 0 40 = 0 :=
  field_eq fun i hi => by rw [encodeA_bit]; simp [hi]

@[simp] theorem encodeA_addr (op addr : Byte) : (encodeA op addr).extractLsb' 40 8 = addr :=
  field_eq fun i hi => by rw [encodeA_bit]; simp [show 40 + i < 48 by omega]

/-! ## The bits of a word from its fields -/

/-- A bit of the operation field. -/
theorem bit_of_opField {w : CmdWord} {op : Byte} (h : opField w = op) (i : Nat) (h1 : 56 ≤ i)
    (h2 : i < 64) : w.getLsbD i = op.getLsbD (i - 56) := by
  subst h
  simp [opField, show i - 56 < 8 by omega, show 56 + (i - 56) = i by omega]

/-- A bit of a field that is zero. -/
theorem bit_of_zero_field {w : CmdWord} {k n : Nat} (h : w.extractLsb' k n = 0) (i : Nat) (h1 : k ≤ i)
    (h2 : i < k + n) : w.getLsbD i = false := by
  have := congrArg (fun b : BitVec n => b.getLsbD (i - k)) h
  simpa [show i - k < n by omega, show k + (i - k) = i by omega] using this

end Sys2Proof
end

