-- ==== Sys2Proof/Laws/Memory.lean ====
section
/-! SUPPORT. The laws of a frame buffer, for every list of cells: a byte reads back as written, every
other byte is unchanged, and every operation keeps the canonical form. -/

namespace Sys2Proof.Machine

@[simp] theorem readByte_nil (i : Nat) : readByte [] i = 0 := rfl

theorem readByte_dropByte (m : Memory) (i j : Nat) :
    readByte (dropByte m i) j = if j = i then 0 else readByte m j := by
  induction m with
  | nil => simp [dropByte]
  | cons c m ih =>
    obtain ⟨k, v⟩ := c
    simp only [dropByte] at ih
    by_cases hk : k = i
    · have hd : dropByte ((k, v) :: m) i = dropByte m i := by simp [dropByte, hk]
      rw [hd, show dropByte m i = m.filter (fun c => c.1 != i) from rfl, ih]
      by_cases hj : j = i
      · simp [hj]
      · simp [hj, readByte, show ¬ k = j by omega]
    · by_cases hj : j = i
      · subst hj; simp [dropByte, hk, ih, readByte]
      · simp [dropByte, hk, ih, hj, readByte]

theorem readByte_putCell (m : Memory) (i j : Nat) (b : Byte) (h : ∀ c ∈ m, c.1 ≠ i) :
    readByte (putCell m i b) j = if j = i then b else readByte m j := by
  induction m with
  | nil => simp [putCell, readByte, Memory.unlisted, eq_comm]
  | cons c m ih =>
    obtain ⟨k, v⟩ := c
    have hk : k ≠ i := h (k, v) (by simp)
    have ih := ih fun c hc => h c (by simp [hc])
    by_cases hlt : i < k
    · simp [putCell, hlt, readByte, eq_comm]
    · by_cases hj : j = i
      · subst hj; simp [putCell, hlt, readByte, hk, ih]
      · simp [putCell, hlt, readByte, ih, hj]

theorem dropByte_ne (m : Memory) (i : Nat) : ∀ c ∈ dropByte m i, c.1 ≠ i := by
  intro c hc; simpa [dropByte] using (List.mem_filter.mp hc).2

/-- Reading after a write: the written byte reads as written, every other as before. -/
theorem readByte_writeByte (m : Memory) (i j : Nat) (b : Byte) :
    readByte (writeByte m i b) j = if j = i then b else readByte m j := by
  unfold writeByte
  split
  · next h => rw [readByte_dropByte]; simp [h, Memory.unlisted]
  · rw [readByte_putCell _ _ _ _ (dropByte_ne m i), readByte_dropByte]
    by_cases h : j = i <;> simp [h]

/-- Reading after a list is written: the bytes of the list from `i` on, every other byte as before. -/
theorem readByte_memWrite (l : List Byte) (m : Memory) (i j : Nat) :
    readByte (memWrite m i l) j
      = if i ≤ j ∧ j < i + l.length then l.getD (j - i) 0 else readByte m j := by
  induction l generalizing m i with
  | nil => simp [memWrite, show ¬ (i ≤ j ∧ j < i) by omega]
  | cons b bs ih =>
    rw [memWrite, ih, readByte_writeByte]
    simp only [List.length_cons]
    by_cases h1 : j = i
    · subst h1; simp
    · by_cases h2 : i + 1 ≤ j ∧ j < i + 1 + bs.length
      · rw [if_pos h2, if_pos (by omega), show j - i = (j - (i + 1)) + 1 by omega]; simp
      · rw [if_neg h2, if_neg h1, if_neg (by omega)]

@[simp] theorem memRead_length (m : Memory) (i n : Nat) : (memRead m i n).length = n := by
  simp [memRead]

/-- The `k`-th byte of a list that was read. -/
theorem memRead_getD (m : Memory) (i n k : Nat) (h : k < n) :
    (memRead m i n).getD k 0 = readByte m (i + k) := by
  simp [memRead, List.getD_eq_getElem?_getD, h]

/-- Reading depends only on the bytes that are read. -/
theorem memRead_congr {m m' : Memory} {i n : Nat}
    (h : ∀ k, k < n → readByte m (i + k) = readByte m' (i + k)) : memRead m i n = memRead m' i n := by
  simp only [memRead, List.map_inj_left, List.mem_range]
  exact h

/-- A shorter read is the front of a longer one. -/
theorem memRead_take (m : Memory) (i n k : Nat) (h : k ≤ n) :
    (memRead m i n).take k = memRead m i k := by
  simp [memRead, ← List.map_take, List.take_range, Nat.min_eq_left h]

/-! ## The canonical form -/

theorem wf_iff (m : Memory) :
    Memory.wf m = true ↔ m.Pairwise (fun a b => a.1 < b.1) ∧ ∀ c ∈ m, c.2 ≠ 0 := by
  simp [Memory.wf, Memory.unlisted]

theorem below_iff (cap : Nat) (m : Memory) : Memory.below cap m = true ↔ ∀ c ∈ m, c.1 < cap := by
  simp [Memory.below]

@[simp] theorem wf_nil : Memory.wf [] = true := rfl
@[simp] theorem below_nil (cap : Nat) : Memory.below cap [] = true := rfl

theorem mem_putCell {m : Memory} {i : Nat} {b : Byte} {c : Host.Cell} :
    c ∈ putCell m i b ↔ c = (i, b) ∨ c ∈ m := by
  induction m with
  | nil => simp [putCell]
  | cons d m ih =>
    obtain ⟨k, v⟩ := d
    by_cases h : i < k
    · simp [putCell, h]
    · simp only [putCell, if_neg h, List.mem_cons, ih]
      tauto

theorem pairwise_putCell {m : Memory} {i : Nat} {b : Byte} (hm : m.Pairwise (fun a b => a.1 < b.1))
    (hi : ∀ c ∈ m, c.1 ≠ i) : (putCell m i b).Pairwise (fun a b => a.1 < b.1) := by
  induction m with
  | nil => simp [putCell]
  | cons d m ih =>
    obtain ⟨k, v⟩ := d
    obtain ⟨hd, hm⟩ := List.pairwise_cons.mp hm
    have hk : k ≠ i := hi (k, v) (by simp)
    by_cases h : i < k
    · simp only [putCell, if_pos h]
      refine List.pairwise_cons.mpr ⟨fun c hc => ?_, List.pairwise_cons.mpr ⟨hd, hm⟩⟩
      rcases List.mem_cons.mp hc with rfl | hc
      · exact h
      · exact Nat.lt_trans h (hd c hc)
    · simp only [putCell, if_neg h]
      refine List.pairwise_cons.mpr ⟨fun c hc => ?_, ih hm fun c hc => hi c (by simp [hc])⟩
      rcases mem_putCell.mp hc with rfl | hc
      · show k < i; omega
      · exact hd c hc

/-- Every write keeps the canonical form. -/
theorem writeByte_wf {m : Memory} (i : Nat) (b : Byte) (h : Memory.wf m = true) :
    Memory.wf (writeByte m i b) = true := by
  obtain ⟨hp, hz⟩ := (wf_iff m).mp h
  have hp' : (dropByte m i).Pairwise (fun a b => a.1 < b.1) := hp.filter _
  have hz' : ∀ c ∈ dropByte m i, c.2 ≠ 0 := fun c hc => hz c (List.mem_filter.mp hc).1
  refine (wf_iff _).mpr ?_
  unfold writeByte
  split
  · exact ⟨hp', hz'⟩
  · next hb =>
    refine ⟨pairwise_putCell hp' (dropByte_ne m i), fun c hc => ?_⟩
    rcases mem_putCell.mp hc with rfl | hc
    · exact hb
    · exact hz' c hc

/-- A write at an index of the buffer lists no index outside it. -/
theorem writeByte_below {m : Memory} {cap : Nat} (i : Nat) (b : Byte) (hi : i < cap)
    (h : Memory.below cap m = true) : Memory.below cap (writeByte m i b) = true := by
  rw [below_iff] at *
  have hd : ∀ c ∈ dropByte m i, c.1 < cap := fun c hc => h c (List.mem_filter.mp hc).1
  unfold writeByte
  split
  · exact hd
  · intro c hc
    rcases mem_putCell.mp hc with rfl | hc
    · exact hi
    · exact hd c hc

/-- Writing a list keeps the canonical form. -/
theorem memWrite_wf (l : List Byte) {m : Memory} (i : Nat) (h : Memory.wf m = true) :
    Memory.wf (memWrite m i l) = true := by
  induction l generalizing m i with
  | nil => exact h
  | cons b bs ih => exact ih _ (writeByte_wf i b h)

/-- Writing a list inside the buffer lists no index outside it. -/
theorem memWrite_below (l : List Byte) {m : Memory} {cap : Nat} (i : Nat) (hi : i + l.length ≤ cap)
    (h : Memory.below cap m = true) : Memory.below cap (memWrite m i l) = true := by
  induction l generalizing m i with
  | nil => exact h
  | cons b bs ih =>
    simp only [List.length_cons] at hi
    exact ih _ (by omega) (writeByte_below i b (by omega) h)

/-- A byte outside a buffer that lists only indexes of it reads as 0. -/
theorem readByte_of_below {m : Memory} {cap i : Nat} (h : Memory.below cap m = true) (hi : cap ≤ i) :
    readByte m i = 0 := by
  induction m with
  | nil => rfl
  | cons c m ih =>
    obtain ⟨k, v⟩ := c
    rw [below_iff] at h ih
    have hk : k < cap := h (k, v) (by simp)
    simp only [readByte, if_neg (show ¬ k = i by omega)]
    exact ih fun c hc => h c (by simp [hc])

/-- Two buffers in canonical form that read the same everywhere are equal. -/
theorem eq_of_readByte {m m' : Memory} (h : Memory.wf m = true) (h' : Memory.wf m' = true)
    (hr : ∀ i, readByte m i = readByte m' i) : m = m' := by
  rw [wf_iff] at h h'
  have low : ∀ (n : Memory) (k i : Nat), (∀ c ∈ n, k < c.1) → i ≤ k → readByte n i = 0 := by
    intro n k i hn hik
    induction n with
    | nil => rfl
    | cons c n ih =>
      obtain ⟨a, v⟩ := c
      have : k < a := hn (a, v) (by simp)
      simp only [readByte, if_neg (show ¬ a = i by omega)]
      exact ih fun c hc => hn c (by simp [hc])
  induction m generalizing m' with
  | nil =>
    cases m' with
    | nil => rfl
    | cons c m' =>
      obtain ⟨k, v⟩ := c
      have := hr k
      simp only [readByte, if_true] at this
      exact absurd this.symm (h'.2 (k, v) (by simp))
  | cons c m ih =>
    obtain ⟨k, v⟩ := c
    obtain ⟨hlt, hp⟩ := List.pairwise_cons.mp h.1
    have hv : v ≠ 0 := h.2 (k, v) (by simp)
    cases m' with
    | nil =>
      have := hr k
      simp only [readByte, if_true] at this
      exact absurd this hv
    | cons c' m' =>
      obtain ⟨k', v'⟩ := c'
      obtain ⟨hlt', hp'⟩ := List.pairwise_cons.mp h'.1
      have hv' : v' ≠ 0 := h'.2 (k', v') (by simp)
      have hk : k = k' := by
        by_contra hne
        rcases Nat.lt_or_gt_of_ne hne with hl | hl
        · have := hr k
          simp only [readByte, if_true, if_neg (show ¬ k' = k by omega)] at this
          exact hv (this.trans (low m' k' k hlt' (by omega)))
        · have := hr k'
          simp only [readByte, if_true, if_neg (show ¬ k = k' by omega)] at this
          exact hv' (this.symm.trans (low m k k' hlt (by omega)))
      subst hk
      have hvv : v = v' := by simpa [readByte] using hr k
      subst hvv
      congr 1
      refine ih ⟨hp, fun c hc => h.2 c (by simp [hc])⟩ ⟨hp', fun c hc => h'.2 c (by simp [hc])⟩ ?_
      intro i
      by_cases hi : k = i
      · subst hi
        rw [low m k k hlt (Nat.le_refl k), low m' k k hlt' (Nat.le_refl k)]
      · simpa [readByte, hi] using hr i

end Sys2Proof.Machine
end

