-- ==== Sys2Proof/Laws/Params.lean ====
section
/-! SUPPORT. The value of each parameter of the block (`00_scope.md` R8), as simp lemmas. (The proofs stand in
brackets so that simp rewrites with them as equations, under an `if` too.) -/

namespace Sys2Proof.Machine

@[simp] theorem params_txcap : params.txcap = 8 := (rfl)
@[simp] theorem params_rxcap : params.rxcap = 25 := (rfl)
@[simp] theorem params_resetCmd : params.resetCmd = 0x42 := (rfl)
@[simp] theorem params_errMark : params.errMark = 0x80 := (rfl)
@[simp] theorem params_decodeLen : params.decodeLen = 25 := (rfl)
@[simp] theorem params_crcWidth : params.crcWidth = 16 := (rfl)
@[simp] theorem params_crcPoly : params.crcPoly = 0x8005 := (rfl)
@[simp] theorem params_crcPolyReflected : params.crcPolyReflected = 0xA001 := (rfl)
@[simp] theorem params_crcReflectIn : params.crcReflectIn = true := (rfl)
@[simp] theorem params_crcReflectOut : params.crcReflectOut = true := (rfl)
@[simp] theorem params_crcXorOut : params.crcXorOut = 0x0000 := (rfl)
@[simp] theorem params_crcInit : params.crcInit = 0xFFFF := (rfl)
@[simp] theorem params_vDiv : params.vDiv = 10 := (rfl)
@[simp] theorem params_iDiv : params.iDiv = 1000 := (rfl)
@[simp] theorem params_pDiv : params.pDiv = 10 := (rfl)
@[simp] theorem params_eDiv : params.eDiv = 1000 := (rfl)
@[simp] theorem params_fDiv : params.fDiv = 10 := (rfl)
@[simp] theorem params_pfDiv : params.pfDiv = 100 := (rfl)

/-- The values are ones a model may take (R8, D4); the two forms of the polynomial agree (R3). -/
theorem params_legal : params.legal = true := by decide

end Sys2Proof.Machine
end

