-- ==== Sys2Proof/Laws/Crc.lean ====
section
/-! SUPPORT. The small lemmas of the checksum functions (`41_checksum.md` R170 to R174). -/

namespace Sys2Proof.Machine

/-- The shift of R170, with the parameters of R3. -/
theorem crcShift_eq (c : Half) :
    crcShift c = if c.getLsbD 0 then (c >>> 1) ^^^ 0xA001 else c >>> 1 := by
  simp [crcShift]

/-- A byte enters at the low end (R170). -/
@[simp] theorem crcAlign_eq (b : Byte) : crcAlign b = b.setWidth 16 := by
  simp [crcAlign]

/-- The byte step of R170: the byte is added and the sum shifted eight times. -/
theorem crcStep_eq (c : Half) (b : Byte) : crcStep c b = crcShifts 8 (c ^^^ b.setWidth 16) := by
  rw [crcStep, crcAlign_eq]

/-- No final XOR and no second reflection (R171). -/
@[simp] theorem crcFinal_eq (c : Half) : crcFinal c = c := by
  simp [crcFinal]

/-- `crc16` as R171 writes it: from 0xFFFF, one step per byte. -/
theorem crc16_eq (l : List Byte) : crc16 l = l.foldl crcStep 0xFFFF := by
  simp [crc16]

@[simp] theorem crc16_nil : crc16 [] = 0xFFFF := crc16_eq []

/-- One more byte is one more step (R171). -/
theorem crc16_concat (l : List Byte) (b : Byte) : crc16 (l ++ [b]) = crcStep (crc16 l) b := by
  simp [crc16_eq, List.foldl_append]

/-- Two byte lists in a row: the second starts from the checksum of the first (R171, R176). -/
theorem crc16_append (l m : List Byte) : crc16 (l ++ m) = m.foldl crcStep (crc16 l) := by
  simp [crc16_eq, List.foldl_append]

@[simp] theorem trailer_length (c : Half) : (trailer c).length = 2 := (rfl)

/-- A list that ends in the trailer of `c` has `c` as its trailer (R73, R173). -/
@[simp] theorem trailerOf_append_trailer (l : List Byte) (c : Half) :
    trailerOf (l ++ trailer c) = c := by
  have h1 : (l ++ trailer c).getD ((l ++ trailer c).length - 1) 0 = hiByte c := by
    simp [trailer, List.getD_eq_getElem?_getD]
  have h2 : (l ++ trailer c).getD ((l ++ trailer c).length - 2) 0 = loByte c := by
    simp [trailer, List.getD_eq_getElem?_getD]
  rw [trailerOf, h1, h2]
  exact hi_append_lo c

/-- The trailer bytes of a trailer value (R73). -/
theorem trailer_append (hi lo : Byte) : trailer (hi ++ lo) = [lo, hi] := by
  have h1 : loByte (hi ++ lo) = lo := (extract_append_low hi lo 0 8 (by decide)).trans (extract_all lo)
  have h2 : hiByte (hi ++ lo) = hi := (extract_append_high hi lo 8 8 (by decide)).trans (extract_all hi)
  rw [trailer, h1, h2]

/-- A list of at least two bytes is its body and its trailer. -/
theorem take_append_trailerOf (l : List Byte) (h : 2 ≤ l.length) :
    l.take (l.length - 2) ++ trailer (trailerOf l) = l := by
  rw [trailerOf, trailer_append]
  apply List.ext_getElem
  · simp; omega
  · intro i h1 h2
    by_cases h3 : i < l.length - 2
    · rw [List.getElem_append_left (by simp; omega)]; simp
    · rw [List.getElem_append_right (by simp; omega)]
      simp only [List.length_take, Nat.min_eq_left (show l.length - 2 ≤ l.length by omega)]
      by_cases h4 : i = l.length - 2
      · subst h4; simp [List.getD_eq_getElem?_getD, show l.length - 2 < l.length by omega]
      · have h5 : i = l.length - 1 := by omega
        subst h5
        simp [show l.length - 1 - (l.length - 2) = 1 by omega, List.getD_eq_getElem?_getD,
          show l.length - 1 < l.length by omega]

/-- What `verify` says of a list of more than two bytes (R173). -/
theorem verify_eq {l : List Byte} (h : 2 < l.length) :
    verify l = (crc16 (l.take (l.length - 2)) == trailerOf l) := by
  simp [verify, show ¬ l.length ≤ 2 by omega]

/-- A list that verifies has at least three bytes (R173, R205). -/
theorem length_of_verify {l : List Byte} (h : verify l = true) : 3 ≤ l.length := by
  by_contra hl
  simp [verify, show l.length ≤ 2 by omega] at h

end Sys2Proof.Machine
end

