-- ==== Sys2Proof/Laws/State.lean ====
section
/-! SUPPORT. One lemma per field per named update of State, each true by definition, so that no later
proof unfolds a record update. -/

namespace Sys2Proof.Machine

/-! ## The reset state -/

@[simp] theorem reset_crc : State.reset.crc = 0xFFFF := rfl
@[simp] theorem reset_tx : State.reset.tx = [] := rfl
@[simp] theorem reset_txlen : State.reset.txlen = .zero := rfl
@[simp] theorem reset_rx : State.reset.rx = [] := rfl
@[simp] theorem reset_rxcnt : State.reset.rxcnt = 0 := rfl
@[simp] theorem reset_status : State.reset.status = 0 := rfl
@[simp] theorem reset_pvlen : State.reset.pvlen = 0 := rfl
@[simp] theorem reset_deverr : State.reset.deverr = 0 := rfl
@[simp] theorem reset_meas : State.reset.meas = ⟨0, 0, 0, 0, 0, 0, 0⟩ := rfl
@[simp] theorem reset_pending : State.reset.pending = [] := rfl
@[simp] theorem reset_readData : State.reset.readData = 0 := rfl

/-! ## `setResult` -/

@[simp] theorem setResult_crc (s : State) (r : BitVec 4) : (s.setResult r).crc = s.crc := rfl
@[simp] theorem setResult_tx (s : State) (r : BitVec 4) : (s.setResult r).tx = s.tx := rfl
@[simp] theorem setResult_txlen (s : State) (r : BitVec 4) : (s.setResult r).txlen = s.txlen := rfl
@[simp] theorem setResult_rx (s : State) (r : BitVec 4) : (s.setResult r).rx = s.rx := rfl
@[simp] theorem setResult_rxcnt (s : State) (r : BitVec 4) : (s.setResult r).rxcnt = s.rxcnt := rfl
@[simp] theorem setResult_status (s : State) (r : BitVec 4) : (s.setResult r).status = statusWithResult s.status r := rfl
@[simp] theorem setResult_pvlen (s : State) (r : BitVec 4) : (s.setResult r).pvlen = s.pvlen := rfl
@[simp] theorem setResult_deverr (s : State) (r : BitVec 4) : (s.setResult r).deverr = s.deverr := rfl
@[simp] theorem setResult_meas (s : State) (r : BitVec 4) : (s.setResult r).meas = s.meas := rfl
@[simp] theorem setResult_pending (s : State) (r : BitVec 4) : (s.setResult r).pending = s.pending := rfl
@[simp] theorem setResult_readData (s : State) (r : BitVec 4) : (s.setResult r).readData = s.readData := rfl

/-! ## `setVok` -/

@[simp] theorem setVok_crc (s : State) (b : Bool) : (s.setVok b).crc = s.crc := rfl
@[simp] theorem setVok_tx (s : State) (b : Bool) : (s.setVok b).tx = s.tx := rfl
@[simp] theorem setVok_txlen (s : State) (b : Bool) : (s.setVok b).txlen = s.txlen := rfl
@[simp] theorem setVok_rx (s : State) (b : Bool) : (s.setVok b).rx = s.rx := rfl
@[simp] theorem setVok_rxcnt (s : State) (b : Bool) : (s.setVok b).rxcnt = s.rxcnt := rfl
@[simp] theorem setVok_status (s : State) (b : Bool) : (s.setVok b).status = statusWithBit s.status 4 b := rfl
@[simp] theorem setVok_pvlen (s : State) (b : Bool) : (s.setVok b).pvlen = s.pvlen := rfl
@[simp] theorem setVok_deverr (s : State) (b : Bool) : (s.setVok b).deverr = s.deverr := rfl
@[simp] theorem setVok_meas (s : State) (b : Bool) : (s.setVok b).meas = s.meas := rfl
@[simp] theorem setVok_pending (s : State) (b : Bool) : (s.setVok b).pending = s.pending := rfl
@[simp] theorem setVok_readData (s : State) (b : Bool) : (s.setVok b).readData = s.readData := rfl

/-! ## `setPv` -/

@[simp] theorem setPv_crc (s : State) (n : Byte) : (s.setPv n).crc = s.crc := rfl
@[simp] theorem setPv_tx (s : State) (n : Byte) : (s.setPv n).tx = s.tx := rfl
@[simp] theorem setPv_txlen (s : State) (n : Byte) : (s.setPv n).txlen = s.txlen := rfl
@[simp] theorem setPv_rx (s : State) (n : Byte) : (s.setPv n).rx = s.rx := rfl
@[simp] theorem setPv_rxcnt (s : State) (n : Byte) : (s.setPv n).rxcnt = s.rxcnt := rfl
@[simp] theorem setPv_status (s : State) (n : Byte) : (s.setPv n).status = statusWithBit s.status 5 true := rfl
@[simp] theorem setPv_pvlen (s : State) (n : Byte) : (s.setPv n).pvlen = n := rfl
@[simp] theorem setPv_deverr (s : State) (n : Byte) : (s.setPv n).deverr = s.deverr := rfl
@[simp] theorem setPv_meas (s : State) (n : Byte) : (s.setPv n).meas = s.meas := rfl
@[simp] theorem setPv_pending (s : State) (n : Byte) : (s.setPv n).pending = s.pending := rfl
@[simp] theorem setPv_readData (s : State) (n : Byte) : (s.setPv n).readData = s.readData := rfl

/-! ## `clearPv` -/

@[simp] theorem clearPv_crc (s : State) : (s.clearPv).crc = s.crc := rfl
@[simp] theorem clearPv_tx (s : State) : (s.clearPv).tx = s.tx := rfl
@[simp] theorem clearPv_txlen (s : State) : (s.clearPv).txlen = s.txlen := rfl
@[simp] theorem clearPv_rx (s : State) : (s.clearPv).rx = s.rx := rfl
@[simp] theorem clearPv_rxcnt (s : State) : (s.clearPv).rxcnt = s.rxcnt := rfl
@[simp] theorem clearPv_status (s : State) : (s.clearPv).status = statusWithBit s.status 5 false := rfl
@[simp] theorem clearPv_pvlen (s : State) : (s.clearPv).pvlen = 0 := rfl
@[simp] theorem clearPv_deverr (s : State) : (s.clearPv).deverr = s.deverr := rfl
@[simp] theorem clearPv_meas (s : State) : (s.clearPv).meas = s.meas := rfl
@[simp] theorem clearPv_pending (s : State) : (s.clearPv).pending = s.pending := rfl
@[simp] theorem clearPv_readData (s : State) : (s.clearPv).readData = s.readData := rfl

/-! ## `setMv` -/

@[simp] theorem setMv_crc (s : State) : (s.setMv).crc = s.crc := rfl
@[simp] theorem setMv_tx (s : State) : (s.setMv).tx = s.tx := rfl
@[simp] theorem setMv_txlen (s : State) : (s.setMv).txlen = s.txlen := rfl
@[simp] theorem setMv_rx (s : State) : (s.setMv).rx = s.rx := rfl
@[simp] theorem setMv_rxcnt (s : State) : (s.setMv).rxcnt = s.rxcnt := rfl
@[simp] theorem setMv_status (s : State) : (s.setMv).status = statusWithBit s.status 6 true := rfl
@[simp] theorem setMv_pvlen (s : State) : (s.setMv).pvlen = s.pvlen := rfl
@[simp] theorem setMv_deverr (s : State) : (s.setMv).deverr = s.deverr := rfl
@[simp] theorem setMv_meas (s : State) : (s.setMv).meas = s.meas := rfl
@[simp] theorem setMv_pending (s : State) : (s.setMv).pending = s.pending := rfl
@[simp] theorem setMv_readData (s : State) : (s.setMv).readData = s.readData := rfl

/-! ## `setRxovf` -/

@[simp] theorem setRxovf_crc (s : State) (b : Bool) : (s.setRxovf b).crc = s.crc := rfl
@[simp] theorem setRxovf_tx (s : State) (b : Bool) : (s.setRxovf b).tx = s.tx := rfl
@[simp] theorem setRxovf_txlen (s : State) (b : Bool) : (s.setRxovf b).txlen = s.txlen := rfl
@[simp] theorem setRxovf_rx (s : State) (b : Bool) : (s.setRxovf b).rx = s.rx := rfl
@[simp] theorem setRxovf_rxcnt (s : State) (b : Bool) : (s.setRxovf b).rxcnt = s.rxcnt := rfl
@[simp] theorem setRxovf_status (s : State) (b : Bool) : (s.setRxovf b).status = statusWithBit s.status 7 b := rfl
@[simp] theorem setRxovf_pvlen (s : State) (b : Bool) : (s.setRxovf b).pvlen = s.pvlen := rfl
@[simp] theorem setRxovf_deverr (s : State) (b : Bool) : (s.setRxovf b).deverr = s.deverr := rfl
@[simp] theorem setRxovf_meas (s : State) (b : Bool) : (s.setRxovf b).meas = s.meas := rfl
@[simp] theorem setRxovf_pending (s : State) (b : Bool) : (s.setRxovf b).pending = s.pending := rfl
@[simp] theorem setRxovf_readData (s : State) (b : Bool) : (s.setRxovf b).readData = s.readData := rfl

/-! ## `setDeverr` -/

@[simp] theorem setDeverr_crc (s : State) (v : Half) : (s.setDeverr v).crc = s.crc := rfl
@[simp] theorem setDeverr_tx (s : State) (v : Half) : (s.setDeverr v).tx = s.tx := rfl
@[simp] theorem setDeverr_txlen (s : State) (v : Half) : (s.setDeverr v).txlen = s.txlen := rfl
@[simp] theorem setDeverr_rx (s : State) (v : Half) : (s.setDeverr v).rx = s.rx := rfl
@[simp] theorem setDeverr_rxcnt (s : State) (v : Half) : (s.setDeverr v).rxcnt = s.rxcnt := rfl
@[simp] theorem setDeverr_status (s : State) (v : Half) : (s.setDeverr v).status = s.status := rfl
@[simp] theorem setDeverr_pvlen (s : State) (v : Half) : (s.setDeverr v).pvlen = s.pvlen := rfl
@[simp] theorem setDeverr_deverr (s : State) (v : Half) : (s.setDeverr v).deverr = v := rfl
@[simp] theorem setDeverr_meas (s : State) (v : Half) : (s.setDeverr v).meas = s.meas := rfl
@[simp] theorem setDeverr_pending (s : State) (v : Half) : (s.setDeverr v).pending = s.pending := rfl
@[simp] theorem setDeverr_readData (s : State) (v : Half) : (s.setDeverr v).readData = s.readData := rfl

/-! ## `setCrc` -/

@[simp] theorem setCrc_crc (s : State) (v : Half) : (s.setCrc v).crc = v := rfl
@[simp] theorem setCrc_tx (s : State) (v : Half) : (s.setCrc v).tx = s.tx := rfl
@[simp] theorem setCrc_txlen (s : State) (v : Half) : (s.setCrc v).txlen = s.txlen := rfl
@[simp] theorem setCrc_rx (s : State) (v : Half) : (s.setCrc v).rx = s.rx := rfl
@[simp] theorem setCrc_rxcnt (s : State) (v : Half) : (s.setCrc v).rxcnt = s.rxcnt := rfl
@[simp] theorem setCrc_status (s : State) (v : Half) : (s.setCrc v).status = s.status := rfl
@[simp] theorem setCrc_pvlen (s : State) (v : Half) : (s.setCrc v).pvlen = s.pvlen := rfl
@[simp] theorem setCrc_deverr (s : State) (v : Half) : (s.setCrc v).deverr = s.deverr := rfl
@[simp] theorem setCrc_meas (s : State) (v : Half) : (s.setCrc v).meas = s.meas := rfl
@[simp] theorem setCrc_pending (s : State) (v : Half) : (s.setCrc v).pending = s.pending := rfl
@[simp] theorem setCrc_readData (s : State) (v : Half) : (s.setCrc v).readData = s.readData := rfl

/-! ## `buildTx` -/

@[simp] theorem buildTx_crc (s : State) (l : List Byte) (n : TxLen) : (s.buildTx l n).crc = s.crc := rfl
@[simp] theorem buildTx_tx (s : State) (l : List Byte) (n : TxLen) : (s.buildTx l n).tx = memWrite s.tx 0 l := rfl
@[simp] theorem buildTx_txlen (s : State) (l : List Byte) (n : TxLen) : (s.buildTx l n).txlen = n := rfl
@[simp] theorem buildTx_rx (s : State) (l : List Byte) (n : TxLen) : (s.buildTx l n).rx = s.rx := rfl
@[simp] theorem buildTx_rxcnt (s : State) (l : List Byte) (n : TxLen) : (s.buildTx l n).rxcnt = s.rxcnt := rfl
@[simp] theorem buildTx_status (s : State) (l : List Byte) (n : TxLen) : (s.buildTx l n).status = s.status := rfl
@[simp] theorem buildTx_pvlen (s : State) (l : List Byte) (n : TxLen) : (s.buildTx l n).pvlen = s.pvlen := rfl
@[simp] theorem buildTx_deverr (s : State) (l : List Byte) (n : TxLen) : (s.buildTx l n).deverr = s.deverr := rfl
@[simp] theorem buildTx_meas (s : State) (l : List Byte) (n : TxLen) : (s.buildTx l n).meas = s.meas := rfl
@[simp] theorem buildTx_pending (s : State) (l : List Byte) (n : TxLen) : (s.buildTx l n).pending = s.pending := rfl
@[simp] theorem buildTx_readData (s : State) (l : List Byte) (n : TxLen) : (s.buildTx l n).readData = s.readData := rfl

/-! ## `emptyRx` -/

@[simp] theorem emptyRx_crc (s : State) : (s.emptyRx).crc = s.crc := rfl
@[simp] theorem emptyRx_tx (s : State) : (s.emptyRx).tx = s.tx := rfl
@[simp] theorem emptyRx_txlen (s : State) : (s.emptyRx).txlen = s.txlen := rfl
@[simp] theorem emptyRx_rx (s : State) : (s.emptyRx).rx = [] := rfl
@[simp] theorem emptyRx_rxcnt (s : State) : (s.emptyRx).rxcnt = 0 := rfl
@[simp] theorem emptyRx_status (s : State) : (s.emptyRx).status = s.status := rfl
@[simp] theorem emptyRx_pvlen (s : State) : (s.emptyRx).pvlen = s.pvlen := rfl
@[simp] theorem emptyRx_deverr (s : State) : (s.emptyRx).deverr = s.deverr := rfl
@[simp] theorem emptyRx_meas (s : State) : (s.emptyRx).meas = s.meas := rfl
@[simp] theorem emptyRx_pending (s : State) : (s.emptyRx).pending = s.pending := rfl
@[simp] theorem emptyRx_readData (s : State) : (s.emptyRx).readData = s.readData := rfl

/-! ## `setMeas` -/

@[simp] theorem setMeas_crc (s : State) (m : Meas) : (s.setMeas m).crc = s.crc := rfl
@[simp] theorem setMeas_tx (s : State) (m : Meas) : (s.setMeas m).tx = s.tx := rfl
@[simp] theorem setMeas_txlen (s : State) (m : Meas) : (s.setMeas m).txlen = s.txlen := rfl
@[simp] theorem setMeas_rx (s : State) (m : Meas) : (s.setMeas m).rx = s.rx := rfl
@[simp] theorem setMeas_rxcnt (s : State) (m : Meas) : (s.setMeas m).rxcnt = s.rxcnt := rfl
@[simp] theorem setMeas_status (s : State) (m : Meas) : (s.setMeas m).status = s.status := rfl
@[simp] theorem setMeas_pvlen (s : State) (m : Meas) : (s.setMeas m).pvlen = s.pvlen := rfl
@[simp] theorem setMeas_deverr (s : State) (m : Meas) : (s.setMeas m).deverr = s.deverr := rfl
@[simp] theorem setMeas_meas (s : State) (m : Meas) : (s.setMeas m).meas = m := rfl
@[simp] theorem setMeas_pending (s : State) (m : Meas) : (s.setMeas m).pending = s.pending := rfl
@[simp] theorem setMeas_readData (s : State) (m : Meas) : (s.setMeas m).readData = s.readData := rfl

/-! ## `assertReset` -/

@[simp] theorem assertReset_crc (s : State) : (s.assertReset).crc = 0xFFFF := rfl
@[simp] theorem assertReset_tx (s : State) : (s.assertReset).tx = [] := rfl
@[simp] theorem assertReset_txlen (s : State) : (s.assertReset).txlen = .zero := rfl
@[simp] theorem assertReset_rx (s : State) : (s.assertReset).rx = [] := rfl
@[simp] theorem assertReset_rxcnt (s : State) : (s.assertReset).rxcnt = 0 := rfl
@[simp] theorem assertReset_status (s : State) : (s.assertReset).status = 0 := rfl
@[simp] theorem assertReset_pvlen (s : State) : (s.assertReset).pvlen = 0 := rfl
@[simp] theorem assertReset_deverr (s : State) : (s.assertReset).deverr = 0 := rfl
@[simp] theorem assertReset_meas (s : State) : (s.assertReset).meas = ⟨0, 0, 0, 0, 0, 0, 0⟩ := rfl
@[simp] theorem assertReset_pending (s : State) : (s.assertReset).pending = s.pending := rfl
@[simp] theorem assertReset_readData (s : State) : (s.assertReset).readData = s.readData := rfl

/-! ## `issue` -/

@[simp] theorem issue_crc (s : State) (w : CmdWord) : (s.issue w).crc = s.crc := rfl
@[simp] theorem issue_tx (s : State) (w : CmdWord) : (s.issue w).tx = s.tx := rfl
@[simp] theorem issue_txlen (s : State) (w : CmdWord) : (s.issue w).txlen = s.txlen := rfl
@[simp] theorem issue_rx (s : State) (w : CmdWord) : (s.issue w).rx = s.rx := rfl
@[simp] theorem issue_rxcnt (s : State) (w : CmdWord) : (s.issue w).rxcnt = s.rxcnt := rfl
@[simp] theorem issue_status (s : State) (w : CmdWord) : (s.issue w).status = s.status := rfl
@[simp] theorem issue_pvlen (s : State) (w : CmdWord) : (s.issue w).pvlen = s.pvlen := rfl
@[simp] theorem issue_deverr (s : State) (w : CmdWord) : (s.issue w).deverr = s.deverr := rfl
@[simp] theorem issue_meas (s : State) (w : CmdWord) : (s.issue w).meas = s.meas := rfl
@[simp] theorem issue_pending (s : State) (w : CmdWord) : (s.issue w).pending = .command w :: s.pending := rfl
@[simp] theorem issue_readData (s : State) (w : CmdWord) : (s.issue w).readData = s.readData := rfl

/-! ## `raise` and `finish` -/

@[simp] theorem raise_crc (s : State) (r : Result) : (s.raise r).crc = s.crc := rfl
@[simp] theorem raise_tx (s : State) (r : Result) : (s.raise r).tx = s.tx := rfl
@[simp] theorem raise_txlen (s : State) (r : Result) : (s.raise r).txlen = s.txlen := rfl
@[simp] theorem raise_rx (s : State) (r : Result) : (s.raise r).rx = s.rx := rfl
@[simp] theorem raise_rxcnt (s : State) (r : Result) : (s.raise r).rxcnt = s.rxcnt := rfl
@[simp] theorem raise_status (s : State) (r : Result) : (s.raise r).status = statusWithResult s.status r.code := rfl
@[simp] theorem raise_pvlen (s : State) (r : Result) : (s.raise r).pvlen = s.pvlen := rfl
@[simp] theorem raise_deverr (s : State) (r : Result) : (s.raise r).deverr = s.deverr := rfl
@[simp] theorem raise_meas (s : State) (r : Result) : (s.raise r).meas = s.meas := rfl
@[simp] theorem raise_pending (s : State) (r : Result) : (s.raise r).pending = s.pending := rfl
@[simp] theorem raise_readData (s : State) (r : Result) : (s.raise r).readData = s.readData := rfl
@[simp] theorem finish_crc (s : State) : s.finish.crc = s.crc := rfl
@[simp] theorem finish_tx (s : State) : s.finish.tx = s.tx := rfl
@[simp] theorem finish_txlen (s : State) : s.finish.txlen = s.txlen := rfl
@[simp] theorem finish_rx (s : State) : s.finish.rx = s.rx := rfl
@[simp] theorem finish_rxcnt (s : State) : s.finish.rxcnt = s.rxcnt := rfl
@[simp] theorem finish_status (s : State) : s.finish.status = statusWithResult s.status 0 := rfl
@[simp] theorem finish_pvlen (s : State) : s.finish.pvlen = s.pvlen := rfl
@[simp] theorem finish_deverr (s : State) : s.finish.deverr = s.deverr := rfl
@[simp] theorem finish_meas (s : State) : s.finish.meas = s.meas := rfl
@[simp] theorem finish_pending (s : State) : s.finish.pending = s.pending := rfl
@[simp] theorem finish_readData (s : State) : s.finish.readData = s.readData := rfl

/-! ## `setBuf` -/

@[simp] theorem setBuf_tx_crc (s : State) (m : Memory) : (s.setBuf .tx m).crc = s.crc := rfl
@[simp] theorem setBuf_rx_crc (s : State) (m : Memory) : (s.setBuf .rx m).crc = s.crc := rfl
@[simp] theorem setBuf_tx_tx (s : State) (m : Memory) : (s.setBuf .tx m).tx = m := rfl
@[simp] theorem setBuf_rx_tx (s : State) (m : Memory) : (s.setBuf .rx m).tx = s.tx := rfl
@[simp] theorem setBuf_tx_txlen (s : State) (m : Memory) : (s.setBuf .tx m).txlen = s.txlen := rfl
@[simp] theorem setBuf_rx_txlen (s : State) (m : Memory) : (s.setBuf .rx m).txlen = s.txlen := rfl
@[simp] theorem setBuf_tx_rx (s : State) (m : Memory) : (s.setBuf .tx m).rx = s.rx := rfl
@[simp] theorem setBuf_rx_rx (s : State) (m : Memory) : (s.setBuf .rx m).rx = m := rfl
@[simp] theorem setBuf_tx_rxcnt (s : State) (m : Memory) : (s.setBuf .tx m).rxcnt = s.rxcnt := rfl
@[simp] theorem setBuf_rx_rxcnt (s : State) (m : Memory) : (s.setBuf .rx m).rxcnt = s.rxcnt := rfl
@[simp] theorem setBuf_tx_status (s : State) (m : Memory) : (s.setBuf .tx m).status = s.status := rfl
@[simp] theorem setBuf_rx_status (s : State) (m : Memory) : (s.setBuf .rx m).status = s.status := rfl
@[simp] theorem setBuf_tx_pvlen (s : State) (m : Memory) : (s.setBuf .tx m).pvlen = s.pvlen := rfl
@[simp] theorem setBuf_rx_pvlen (s : State) (m : Memory) : (s.setBuf .rx m).pvlen = s.pvlen := rfl
@[simp] theorem setBuf_tx_deverr (s : State) (m : Memory) : (s.setBuf .tx m).deverr = s.deverr := rfl
@[simp] theorem setBuf_rx_deverr (s : State) (m : Memory) : (s.setBuf .rx m).deverr = s.deverr := rfl
@[simp] theorem setBuf_tx_meas (s : State) (m : Memory) : (s.setBuf .tx m).meas = s.meas := rfl
@[simp] theorem setBuf_rx_meas (s : State) (m : Memory) : (s.setBuf .rx m).meas = s.meas := rfl
@[simp] theorem setBuf_tx_pending (s : State) (m : Memory) : (s.setBuf .tx m).pending = s.pending := rfl
@[simp] theorem setBuf_rx_pending (s : State) (m : Memory) : (s.setBuf .rx m).pending = s.pending := rfl
@[simp] theorem setBuf_tx_readData (s : State) (m : Memory) : (s.setBuf .tx m).readData = s.readData := rfl
@[simp] theorem setBuf_rx_readData (s : State) (m : Memory) : (s.setBuf .rx m).readData = s.readData := rfl

@[simp] theorem buf_tx (s : State) : s.buf .tx = s.tx := rfl
@[simp] theorem buf_rx (s : State) : s.buf .rx = s.rx := rfl
@[simp] theorem setBuf_buf (s : State) (b : Buf) (m : Memory) : (s.setBuf b m).buf b = m := by
  cases b <;> rfl
@[simp] theorem fill_tx (s : State) : s.fill .tx = s.txlen.toNat := rfl
@[simp] theorem fill_rx (s : State) : s.fill .rx = min s.rxcnt.toNat params.rxcap := rfl

/-! ## `pushRx` -/

@[simp] theorem pushRx_crc (s : State) (b : Byte) : (s.pushRx b).crc = s.crc := by
  unfold State.pushRx; split <;> rfl
@[simp] theorem pushRx_tx (s : State) (b : Byte) : (s.pushRx b).tx = s.tx := by
  unfold State.pushRx; split <;> rfl
@[simp] theorem pushRx_txlen (s : State) (b : Byte) : (s.pushRx b).txlen = s.txlen := by
  unfold State.pushRx; split <;> rfl
@[simp] theorem pushRx_rxcnt (s : State) (b : Byte) : (s.pushRx b).rxcnt = satIncr s.rxcnt := by
  unfold State.pushRx; split <;> rfl
@[simp] theorem pushRx_pvlen (s : State) (b : Byte) : (s.pushRx b).pvlen = s.pvlen := by
  unfold State.pushRx; split <;> rfl
@[simp] theorem pushRx_deverr (s : State) (b : Byte) : (s.pushRx b).deverr = s.deverr := by
  unfold State.pushRx; split <;> rfl
@[simp] theorem pushRx_meas (s : State) (b : Byte) : (s.pushRx b).meas = s.meas := by
  unfold State.pushRx; split <;> rfl
@[simp] theorem pushRx_pending (s : State) (b : Byte) : (s.pushRx b).pending = s.pending := by
  unfold State.pushRx; split <;> rfl
@[simp] theorem pushRx_readData (s : State) (b : Byte) : (s.pushRx b).readData = s.readData := by
  unfold State.pushRx; split <;> rfl

/-- While there is room a push stores the byte and keeps `STATUS`. -/
theorem pushRx_room (s : State) (b : Byte) (h : s.rxcnt.toNat < params.rxcap) :
    (s.pushRx b).rx = writeByte s.rx s.rxcnt.toNat b ∧ (s.pushRx b).status = s.status := by
  simp only [State.pushRx, if_pos h, and_self]

/-- A push that finds `RX` full stores nothing and sets `RXOVF`. -/
theorem pushRx_full (s : State) (b : Byte) (h : params.rxcap ≤ s.rxcnt.toNat) :
    (s.pushRx b).rx = s.rx ∧ (s.pushRx b).status = statusWithBit s.status 7 true := by
  simp only [State.pushRx, if_neg (Nat.not_lt.mpr h), setRxovf_rx, setRxovf_status, and_self]

/-! ## `appendTrailer` -/

@[simp] theorem appendTrailer_crc (s : State) (b : Buf) (n : Nat) : (s.appendTrailer b n).crc = s.crc := by
  cases b <;> rfl
@[simp] theorem appendTrailer_txlen (s : State) (b : Buf) (n : Nat) : (s.appendTrailer b n).txlen = s.txlen := by
  cases b <;> rfl
@[simp] theorem appendTrailer_rxcnt (s : State) (b : Buf) (n : Nat) : (s.appendTrailer b n).rxcnt = s.rxcnt := by
  cases b <;> rfl
@[simp] theorem appendTrailer_status (s : State) (b : Buf) (n : Nat) : (s.appendTrailer b n).status = s.status := by
  cases b <;> rfl
@[simp] theorem appendTrailer_pvlen (s : State) (b : Buf) (n : Nat) : (s.appendTrailer b n).pvlen = s.pvlen := by
  cases b <;> rfl
@[simp] theorem appendTrailer_deverr (s : State) (b : Buf) (n : Nat) : (s.appendTrailer b n).deverr = s.deverr := by
  cases b <;> rfl
@[simp] theorem appendTrailer_meas (s : State) (b : Buf) (n : Nat) : (s.appendTrailer b n).meas = s.meas := by
  cases b <;> rfl
@[simp] theorem appendTrailer_pending (s : State) (b : Buf) (n : Nat) : (s.appendTrailer b n).pending = s.pending := by
  cases b <;> rfl
@[simp] theorem appendTrailer_readData (s : State) (b : Buf) (n : Nat) : (s.appendTrailer b n).readData = s.readData := by
  cases b <;> rfl

@[simp] theorem appendTrailer_tx_rx (s : State) (n : Nat) : (s.appendTrailer .tx n).rx = s.rx := rfl
@[simp] theorem appendTrailer_rx_tx (s : State) (n : Nat) : (s.appendTrailer .rx n).tx = s.tx := rfl

/-- The buffer after `appendTrailer`: the trailer of its first `n - 2` bytes, written at `n - 2`. -/
theorem appendTrailer_buf (s : State) (b : Buf) (n : Nat) :
    (s.appendTrailer b n).buf b
      = memWrite (s.buf b) (n - 2) (trailer (crc16 (s.head b (n - 2)))) := setBuf_buf s b _

end Sys2Proof.Machine
end

