-- ==== Sys2Proof/Laws/Flags.lean ====
section
/-! SUPPORT. The bit fields of `STATUS` and `DEVERR` after each named update: a field that is written
reads back, every other field is unchanged (`10_state.md` R39, R46). -/

namespace Sys2Proof.Machine

/-! ## The status byte -/

theorem statusWithResult_result (st : BitVec 8) (r : BitVec 4) :
    (statusWithResult st r).extractLsb' 0 4 = r :=
  (extract_append_low (st.extractLsb' 4 4) r 0 4 (by decide)).trans (extract_all r)

theorem statusWithResult_flag (st : BitVec 8) (r : BitVec 4) (k : Nat) (h : 4 ≤ k) (h8 : k < 8) :
    (statusWithResult st r).getLsbD k = st.getLsbD k := by
  refine (getLsbD_append_high (st.extractLsb' 4 4) r k h).trans ?_
  simp [show k - 4 < 4 by omega, show 4 + (k - 4) = k by omega]

theorem statusWithBit_flag (st : BitVec 8) (k j : Nat) (b : Bool) (hj : j < 8) :
    (statusWithBit st k b).getLsbD j = if j = k then b else st.getLsbD j := by
  unfold statusWithBit
  by_cases h : j = k
  · subst h; cases b <;> simp [hj]
  · have h1 : ¬ (k ≤ j ∧ j - k = 0) := by omega
    cases b <;> simp [h, hj] <;> omega

theorem statusWithBit_result (st : BitVec 8) (k : Nat) (b : Bool) (hk : 4 ≤ k) :
    (statusWithBit st k b).extractLsb' 0 4 = st.extractLsb' 0 4 := by
  ext i hi
  have := statusWithBit_flag st k i b (by omega)
  simp only [BitVec.getElem_extractLsb', Nat.zero_add, this, if_neg (show i ≠ k by omega)]

/-! ## The fields of `STATUS` in the reset state -/

@[simp] theorem reset_result : State.reset.result = 0 := rfl
@[simp] theorem reset_vok : State.reset.vok = false := rfl
@[simp] theorem reset_pv : State.reset.pv = false := rfl
@[simp] theorem reset_mv : State.reset.mv = false := rfl
@[simp] theorem reset_rxovf : State.reset.rxovf = false := rfl

/-! ## `setResult` -/

@[simp] theorem setResult_result (s : State) (r : BitVec 4) : (s.setResult r).result = r :=
  statusWithResult_result _ _
@[simp] theorem setResult_vok (s : State) (r : BitVec 4) : (s.setResult r).vok = s.vok :=
  statusWithResult_flag _ _ 4 (by decide) (by decide)
@[simp] theorem setResult_pv (s : State) (r : BitVec 4) : (s.setResult r).pv = s.pv :=
  statusWithResult_flag _ _ 5 (by decide) (by decide)
@[simp] theorem setResult_mv (s : State) (r : BitVec 4) : (s.setResult r).mv = s.mv :=
  statusWithResult_flag _ _ 6 (by decide) (by decide)
@[simp] theorem setResult_rxovf (s : State) (r : BitVec 4) : (s.setResult r).rxovf = s.rxovf :=
  statusWithResult_flag _ _ 7 (by decide) (by decide)

/-! ## `setVok` -/

@[simp] theorem setVok_result (s : State) (b : Bool) : (s.setVok b).result = s.result :=
  statusWithBit_result _ 4 _ (by decide)
@[simp] theorem setVok_vok (s : State) (b : Bool) : (s.setVok b).vok = b :=
  statusWithBit_flag _ 4 4 _ (by decide)
@[simp] theorem setVok_pv (s : State) (b : Bool) : (s.setVok b).pv = s.pv :=
  statusWithBit_flag _ 4 5 _ (by decide)
@[simp] theorem setVok_mv (s : State) (b : Bool) : (s.setVok b).mv = s.mv :=
  statusWithBit_flag _ 4 6 _ (by decide)
@[simp] theorem setVok_rxovf (s : State) (b : Bool) : (s.setVok b).rxovf = s.rxovf :=
  statusWithBit_flag _ 4 7 _ (by decide)

/-! ## `setPv` -/

@[simp] theorem setPv_result (s : State) (n : Byte) : (s.setPv n).result = s.result :=
  statusWithBit_result _ 5 _ (by decide)
@[simp] theorem setPv_vok (s : State) (n : Byte) : (s.setPv n).vok = s.vok :=
  statusWithBit_flag _ 5 4 _ (by decide)
@[simp] theorem setPv_pv (s : State) (n : Byte) : (s.setPv n).pv = true :=
  statusWithBit_flag _ 5 5 _ (by decide)
@[simp] theorem setPv_mv (s : State) (n : Byte) : (s.setPv n).mv = s.mv :=
  statusWithBit_flag _ 5 6 _ (by decide)
@[simp] theorem setPv_rxovf (s : State) (n : Byte) : (s.setPv n).rxovf = s.rxovf :=
  statusWithBit_flag _ 5 7 _ (by decide)

/-! ## `clearPv` -/

@[simp] theorem clearPv_result (s : State) : (s.clearPv).result = s.result :=
  statusWithBit_result _ 5 _ (by decide)
@[simp] theorem clearPv_vok (s : State) : (s.clearPv).vok = s.vok :=
  statusWithBit_flag _ 5 4 _ (by decide)
@[simp] theorem clearPv_pv (s : State) : (s.clearPv).pv = false :=
  statusWithBit_flag _ 5 5 _ (by decide)
@[simp] theorem clearPv_mv (s : State) : (s.clearPv).mv = s.mv :=
  statusWithBit_flag _ 5 6 _ (by decide)
@[simp] theorem clearPv_rxovf (s : State) : (s.clearPv).rxovf = s.rxovf :=
  statusWithBit_flag _ 5 7 _ (by decide)

/-! ## `setMv` -/

@[simp] theorem setMv_result (s : State) : (s.setMv).result = s.result :=
  statusWithBit_result _ 6 _ (by decide)
@[simp] theorem setMv_vok (s : State) : (s.setMv).vok = s.vok :=
  statusWithBit_flag _ 6 4 _ (by decide)
@[simp] theorem setMv_pv (s : State) : (s.setMv).pv = s.pv :=
  statusWithBit_flag _ 6 5 _ (by decide)
@[simp] theorem setMv_mv (s : State) : (s.setMv).mv = true :=
  statusWithBit_flag _ 6 6 _ (by decide)
@[simp] theorem setMv_rxovf (s : State) : (s.setMv).rxovf = s.rxovf :=
  statusWithBit_flag _ 6 7 _ (by decide)

/-! ## `setRxovf` -/

@[simp] theorem setRxovf_result (s : State) (b : Bool) : (s.setRxovf b).result = s.result :=
  statusWithBit_result _ 7 _ (by decide)
@[simp] theorem setRxovf_vok (s : State) (b : Bool) : (s.setRxovf b).vok = s.vok :=
  statusWithBit_flag _ 7 4 _ (by decide)
@[simp] theorem setRxovf_pv (s : State) (b : Bool) : (s.setRxovf b).pv = s.pv :=
  statusWithBit_flag _ 7 5 _ (by decide)
@[simp] theorem setRxovf_mv (s : State) (b : Bool) : (s.setRxovf b).mv = s.mv :=
  statusWithBit_flag _ 7 6 _ (by decide)
@[simp] theorem setRxovf_rxovf (s : State) (b : Bool) : (s.setRxovf b).rxovf = b :=
  statusWithBit_flag _ 7 7 _ (by decide)

/-! ## `setDeverr` -/

@[simp] theorem setDeverr_result (s : State) (v : Half) : (s.setDeverr v).result = s.result := rfl
@[simp] theorem setDeverr_vok (s : State) (v : Half) : (s.setDeverr v).vok = s.vok := rfl
@[simp] theorem setDeverr_pv (s : State) (v : Half) : (s.setDeverr v).pv = s.pv := rfl
@[simp] theorem setDeverr_mv (s : State) (v : Half) : (s.setDeverr v).mv = s.mv := rfl
@[simp] theorem setDeverr_rxovf (s : State) (v : Half) : (s.setDeverr v).rxovf = s.rxovf := rfl

/-! ## `setCrc` -/

@[simp] theorem setCrc_result (s : State) (v : Half) : (s.setCrc v).result = s.result := rfl
@[simp] theorem setCrc_vok (s : State) (v : Half) : (s.setCrc v).vok = s.vok := rfl
@[simp] theorem setCrc_pv (s : State) (v : Half) : (s.setCrc v).pv = s.pv := rfl
@[simp] theorem setCrc_mv (s : State) (v : Half) : (s.setCrc v).mv = s.mv := rfl
@[simp] theorem setCrc_rxovf (s : State) (v : Half) : (s.setCrc v).rxovf = s.rxovf := rfl

/-! ## `buildTx` -/

@[simp] theorem buildTx_result (s : State) (l : List Byte) (n : TxLen) : (s.buildTx l n).result = s.result := rfl
@[simp] theorem buildTx_vok (s : State) (l : List Byte) (n : TxLen) : (s.buildTx l n).vok = s.vok := rfl
@[simp] theorem buildTx_pv (s : State) (l : List Byte) (n : TxLen) : (s.buildTx l n).pv = s.pv := rfl
@[simp] theorem buildTx_mv (s : State) (l : List Byte) (n : TxLen) : (s.buildTx l n).mv = s.mv := rfl
@[simp] theorem buildTx_rxovf (s : State) (l : List Byte) (n : TxLen) : (s.buildTx l n).rxovf = s.rxovf := rfl

/-! ## `emptyRx` -/

@[simp] theorem emptyRx_result (s : State) : (s.emptyRx).result = s.result := rfl
@[simp] theorem emptyRx_vok (s : State) : (s.emptyRx).vok = s.vok := rfl
@[simp] theorem emptyRx_pv (s : State) : (s.emptyRx).pv = s.pv := rfl
@[simp] theorem emptyRx_mv (s : State) : (s.emptyRx).mv = s.mv := rfl
@[simp] theorem emptyRx_rxovf (s : State) : (s.emptyRx).rxovf = s.rxovf := rfl

/-! ## `setMeas` -/

@[simp] theorem setMeas_result (s : State) (m : Meas) : (s.setMeas m).result = s.result := rfl
@[simp] theorem setMeas_vok (s : State) (m : Meas) : (s.setMeas m).vok = s.vok := rfl
@[simp] theorem setMeas_pv (s : State) (m : Meas) : (s.setMeas m).pv = s.pv := rfl
@[simp] theorem setMeas_mv (s : State) (m : Meas) : (s.setMeas m).mv = s.mv := rfl
@[simp] theorem setMeas_rxovf (s : State) (m : Meas) : (s.setMeas m).rxovf = s.rxovf := rfl

/-! ## `assertReset` -/

@[simp] theorem assertReset_result (s : State) : (s.assertReset).result = 0 := reset_result
@[simp] theorem assertReset_vok (s : State) : (s.assertReset).vok = false := reset_vok
@[simp] theorem assertReset_pv (s : State) : (s.assertReset).pv = false := reset_pv
@[simp] theorem assertReset_mv (s : State) : (s.assertReset).mv = false := reset_mv
@[simp] theorem assertReset_rxovf (s : State) : (s.assertReset).rxovf = false := reset_rxovf

/-! ## `issue` -/

@[simp] theorem issue_result (s : State) (w : CmdWord) : (s.issue w).result = s.result := rfl
@[simp] theorem issue_vok (s : State) (w : CmdWord) : (s.issue w).vok = s.vok := rfl
@[simp] theorem issue_pv (s : State) (w : CmdWord) : (s.issue w).pv = s.pv := rfl
@[simp] theorem issue_mv (s : State) (w : CmdWord) : (s.issue w).mv = s.mv := rfl
@[simp] theorem issue_rxovf (s : State) (w : CmdWord) : (s.issue w).rxovf = s.rxovf := rfl

/-! ## `raise`, `finish`, `pushRx`, `appendTrailer` -/

@[simp] theorem raise_result (s : State) (r : Result) : (s.raise r).result = r.code :=
  setResult_result s r.code
@[simp] theorem raise_vok (s : State) (r : Result) : (s.raise r).vok = s.vok :=
  setResult_vok s r.code
@[simp] theorem raise_pv (s : State) (r : Result) : (s.raise r).pv = s.pv :=
  setResult_pv s r.code
@[simp] theorem raise_mv (s : State) (r : Result) : (s.raise r).mv = s.mv :=
  setResult_mv s r.code
@[simp] theorem raise_rxovf (s : State) (r : Result) : (s.raise r).rxovf = s.rxovf :=
  setResult_rxovf s r.code
@[simp] theorem finish_result (s : State) : s.finish.result = 0 :=
  setResult_result s 0
@[simp] theorem finish_vok (s : State) : s.finish.vok = s.vok :=
  setResult_vok s 0
@[simp] theorem finish_pv (s : State) : s.finish.pv = s.pv :=
  setResult_pv s 0
@[simp] theorem finish_mv (s : State) : s.finish.mv = s.mv :=
  setResult_mv s 0
@[simp] theorem finish_rxovf (s : State) : s.finish.rxovf = s.rxovf :=
  setResult_rxovf s 0
@[simp] theorem pushRx_result (s : State) (b : Byte) : (s.pushRx b).result = s.result := by
  unfold State.pushRx; split
  · rfl
  · exact setRxovf_result s true
@[simp] theorem pushRx_vok (s : State) (b : Byte) : (s.pushRx b).vok = s.vok := by
  unfold State.pushRx; split
  · rfl
  · exact setRxovf_vok s true
@[simp] theorem pushRx_pv (s : State) (b : Byte) : (s.pushRx b).pv = s.pv := by
  unfold State.pushRx; split
  · rfl
  · exact setRxovf_pv s true
@[simp] theorem pushRx_mv (s : State) (b : Byte) : (s.pushRx b).mv = s.mv := by
  unfold State.pushRx; split
  · rfl
  · exact setRxovf_mv s true

@[simp] theorem pushRx_rxovf (s : State) (b : Byte) :
    (s.pushRx b).rxovf = if s.rxcnt.toNat < params.rxcap then s.rxovf else true := by
  unfold State.pushRx; split
  · rfl
  · exact setRxovf_rxovf s true

@[simp] theorem appendTrailer_result (s : State) (b : Buf) (n : Nat) : (s.appendTrailer b n).result = s.result := by
  cases b <;> rfl
@[simp] theorem appendTrailer_vok (s : State) (b : Buf) (n : Nat) : (s.appendTrailer b n).vok = s.vok := by
  cases b <;> rfl
@[simp] theorem appendTrailer_pv (s : State) (b : Buf) (n : Nat) : (s.appendTrailer b n).pv = s.pv := by
  cases b <;> rfl
@[simp] theorem appendTrailer_mv (s : State) (b : Buf) (n : Nat) : (s.appendTrailer b n).mv = s.mv := by
  cases b <;> rfl
@[simp] theorem appendTrailer_rxovf (s : State) (b : Buf) (n : Nat) : (s.appendTrailer b n).rxovf = s.rxovf := by
  cases b <;> rfl

/-! ## `DEVERR` -/

@[simp] theorem deverrWord_code (k : BitVec 3) (c : Byte) : (deverrWord k c).extractLsb' 0 8 = c :=
  (extract_append_low (0#5 ++ k) c 0 8 (by decide)).trans (extract_all c)

@[simp] theorem deverrWord_kind (k : BitVec 3) (c : Byte) : (deverrWord k c).extractLsb' 8 3 = k :=
  (extract_append_high (0#5 ++ k) c 8 3 (by decide)).trans
    ((extract_append_low (0#5) k 0 3 (by decide)).trans (extract_all k))

@[simp] theorem deverrWord_reserved (k : BitVec 3) (c : Byte) :
    (deverrWord k c).extractLsb' 11 5 = 0 :=
  (extract_append_high (0#5 ++ k) c 11 5 (by decide)).trans
    (extract_append_high (0#5) k 3 5 (by decide))

/-- The kinds that are ever recorded (R47). -/
theorem devkind_le (c : Byte) : 1 ≤ (devkind c).toNat ∧ (devkind c).toNat ≤ 5 := by
  unfold devkind; split <;> decide

end Sys2Proof.Machine
end

