-- ==== Sys2Proof/Laws/Exec.lean ====
section
/-! SUPPORT. For each shared operation and each command with more than one outcome, one lemma that says
once everything it can do: the cases, each with its guard and its next state. -/

namespace Sys2Proof.Machine

/-! ## The checksum commands -/

theorem execCrcBuf_cases {buf : Buf} {n : Byte} {s t : State} (h : execCrcBuf buf n s = .next t) :
    (s.fill buf < n.toNat ∧ t = s.raise .badLength) ∨
    (n.toNat ≤ s.fill buf ∧ t = (s.setCrc (crc16 (s.head buf n.toNat))).finish) := by
  unfold execCrcBuf at h
  split at h
  · next hg => cases h; exact .inl ⟨hg, rfl⟩
  · next hg => cases h; exact .inr ⟨Nat.not_lt.mp hg, rfl⟩

theorem execCrcVerify_cases {buf : Buf} {n : Byte} {s t : State}
    (h : execCrcVerify buf n s = .next t) :
    (s.fill buf < n.toNat ∧ t = s.raise .badLength) ∨
    (n.toNat ≤ s.fill buf ∧ verify (s.head buf n.toNat) = true ∧ t = (s.setVok true).raise .ok) ∨
    (n.toNat ≤ s.fill buf ∧ verify (s.head buf n.toNat) = false ∧
      t = (s.setVok false).raise .badChecksum) := by
  unfold execCrcVerify at h
  split at h
  · next hg => cases h; exact .inl ⟨hg, rfl⟩
  · next hg =>
    cases h
    cases hv : verify (s.head buf n.toNat)
    · exact .inr (.inr ⟨Nat.not_lt.mp hg, rfl, rfl⟩)
    · exact .inr (.inl ⟨Nat.not_lt.mp hg, rfl, rfl⟩)

theorem execCrcAppend_cases {buf : Buf} {n : Byte} {s t : State}
    (h : execCrcAppend buf n s = .next t) :
    ((s.fill buf < n.toNat ∨ n.toNat < 2) ∧ t = s.raise .badLength) ∨
    (buf = .tx ∧ n.toNat ≤ s.fill .tx ∧ 2 ≤ n.toNat ∧ t = (s.appendTrailer .tx n.toNat).finish) ∨
    (buf = .rx ∧ n.toNat ≤ s.fill .rx ∧ 2 ≤ n.toNat ∧
      t = (s.appendTrailer .rx n.toNat).clearPv.finish) := by
  unfold execCrcAppend at h
  split at h
  · next hg => cases h; exact .inl ⟨hg, rfl⟩
  · next hg =>
    cases h
    cases buf
    · exact .inr (.inl ⟨rfl, by omega, by omega, rfl⟩)
    · exact .inr (.inr ⟨rfl, by omega, by omega, rfl⟩)

/-! ## The frame codec -/

/-- The bytes of `TX` after a frame of eight bytes is built (R35, R200, R201). -/
theorem readByte_buildTx (s : State) (l : List Byte) (n : TxLen) (i : Nat) :
    readByte (s.buildTx l n).tx i = if i < l.length then l.getD i 0 else readByte s.tx i := by
  rw [buildTx_tx, readByte_memWrite]
  simp

theorem execParse_cases {n : Byte} {s t : State} (h : execParse n s = .next t) :
    (25 < n.toNat ∧ t = (s.clearPv.setDeverr 0).raise .badLength) ∨
    (n.toNat ≤ 25 ∧ s.rxcnt ≠ n ∧ t = (s.clearPv.setDeverr 0).raise .shortRead) ∨
    (n.toNat ≤ 25 ∧ s.rxcnt = n ∧ verify (s.head .rx n.toNat) = false ∧
      t = (s.clearPv.setDeverr 0).raise .badChecksum) ∨
    (n.toNat ≤ 25 ∧ s.rxcnt = n ∧ verify (s.head .rx n.toNat) = true ∧
      readByte s.rx 1 &&& params.errMark ≠ 0 ∧
      t = ((s.clearPv.setDeverr 0).setDeverr
        (deverrWord (devkind (readByte s.rx 2)) (readByte s.rx 2))).raise .deviceError) ∨
    (n.toNat ≤ 25 ∧ s.rxcnt = n ∧ verify (s.head .rx n.toNat) = true ∧
      readByte s.rx 1 &&& params.errMark = 0 ∧ t = ((s.clearPv.setDeverr 0).setPv n).finish) := by
  unfold execParse at h
  by_cases h1 : n.toNat > params.rxcap
  · rw [if_pos h1] at h; cases h; exact .inl ⟨h1, rfl⟩
  rw [if_neg h1] at h
  have h1 := Nat.not_lt.mp h1
  refine .inr ?_
  by_cases h2 : s.rxcnt = n
  · rw [if_neg (not_not.mpr h2)] at h
    refine .inr ?_
    cases h3 : verify (s.head .rx n.toNat)
    · rw [h3, if_pos (by decide)] at h; cases h; exact .inl ⟨h1, h2, rfl, rfl⟩
    · rw [h3, if_neg (by decide)] at h
      refine .inr ?_
      by_cases h4 : readByte s.rx 1 &&& params.errMark = 0
      · rw [if_neg (not_not.mpr h4)] at h; cases h; exact .inr ⟨h1, h2, rfl, h4, rfl⟩
      · rw [if_pos h4] at h; cases h; exact .inl ⟨h1, h2, rfl, h4, rfl⟩
  · rw [if_pos h2] at h; cases h; exact .inl ⟨h1, h2, rfl⟩

theorem execEchoCheck_cases {s t : State} (h : execEchoCheck s = .next t) :
    (s.pv = false ∧ t = s.raise .notValidated) ∨
    (s.pv = true ∧ s.pvlen.toNat ≠ s.txlen.toNat ∧ t = s.raise .echoMismatch) ∨
    (s.pv = true ∧ s.pvlen.toNat = s.txlen.toNat ∧
      s.head .rx s.txlen.toNat ≠ s.head .tx s.txlen.toNat ∧ t = s.raise .echoMismatch) ∨
    (s.pv = true ∧ s.pvlen.toNat = s.txlen.toNat ∧
      s.head .rx s.txlen.toNat = s.head .tx s.txlen.toNat ∧ t = s.finish) := by
  unfold execEchoCheck at h
  cases hp : s.pv
  · rw [hp, if_pos (by decide)] at h; cases h; exact .inl ⟨rfl, rfl⟩
  rw [hp, if_neg (by decide)] at h
  refine .inr ?_
  by_cases h1 : s.pvlen.toNat = s.txlen.toNat
  · rw [if_neg (not_not.mpr h1)] at h
    by_cases h2 : s.head .rx s.txlen.toNat = s.head .tx s.txlen.toNat
    · rw [if_neg (not_not.mpr h2)] at h; cases h; exact .inr (.inr ⟨rfl, h1, h2, rfl⟩)
    · rw [if_pos h2] at h; cases h; exact .inr (.inl ⟨rfl, h1, h2, rfl⟩)
  · rw [if_pos h1] at h; cases h; exact .inl ⟨rfl, h1, rfl⟩

/-! ## The register decoder -/

theorem execDecode_cases {s t : State} (h : execDecode s = .next t) :
    (s.pv = false ∧ t = s.raise .notValidated) ∨
    (s.pv = true ∧ s.pvlen.toNat ≠ 25 ∧ t = s.raise .badLength) ∨
    (s.pv = true ∧ s.pvlen.toNat = 25 ∧ t = ((s.setMeas (decodePayload s.rx)).setMv).finish) := by
  unfold execDecode at h
  cases hp : s.pv
  · rw [hp, if_pos (by decide)] at h; cases h; exact .inl ⟨rfl, rfl⟩
  rw [hp, if_neg (by decide)] at h
  refine .inr ?_
  by_cases h1 : s.pvlen.toNat = params.decodeLen
  · rw [if_neg (not_not.mpr h1)] at h; cases h; exact .inr ⟨rfl, h1, rfl⟩
  · rw [if_pos h1] at h; cases h; exact .inl ⟨rfl, h1, rfl⟩

/-! ## The port -/

/-- What a command word can do: run the decoded command, or end in `BAD_OPCODE` (R153). -/
theorem runWord_cases (w : CmdWord) (s : State) :
    (∃ i, decode w = .ok i ∧ runWord w s = exec i s) ∨
    (∃ e, decode w = .error e ∧ runWord w s = .next (s.raise .badOpcode)) := by
  unfold runWord
  cases h : decode w with
  | ok i => exact .inl ⟨i, rfl, rfl⟩
  | error e => exact .inr ⟨e, rfl, rfl⟩

/-- What a host read can do (R33, R43). -/
theorem serveRead_cases (r : HostReg) (s : State) :
    (r.exists? = false ∧ serveRead r s = .fault .noSuchBufferByte) ∨
    (r.exists? = true ∧ r.isMeas = true ∧ s.mv = false ∧ serveRead r s = .fault .measBeforeDecode) ∨
    (r.exists? = true ∧ (r.isMeas = true → s.mv = true) ∧
      serveRead r s = .next { s with readData := s.reg r }) := by
  unfold serveRead hostRead
  cases h1 : r.exists?
  · exact .inl ⟨rfl, rfl⟩
  refine .inr ?_
  cases h2 : r.isMeas
  · exact .inr ⟨rfl, fun h => absurd h (by decide), rfl⟩
  cases h3 : s.mv
  · exact .inl ⟨rfl, rfl, rfl, rfl⟩
  · exact .inr ⟨rfl, fun _ => rfl, rfl⟩

/-- A measurement register is no buffer byte, so it exists. -/
theorem exists_of_isMeas {r : HostReg} (h : r.isMeas = true) : r.exists? = true := by
  cases r <;> first | rfl | cases h

@[simp] theorem execAll_nil (s : State) : execAll [] s = .next s := rfl

/-- One command at the front of a list. -/
theorem execAll_cons {i : Instr} {is : List Instr} {s t : State} (h : exec i s = .next t) :
    execAll (i :: is) s = execAll is t := by
  simp only [execAll, h]

/-- Two lists in a row. -/
theorem execAll_append {is js : List Instr} {s t : State} (h : execAll is s = .next t) :
    execAll (is ++ js) s = execAll js t := by
  induction is generalizing s with
  | nil => cases h; rfl
  | cons i is ih =>
    rw [execAll] at h
    cases hi : exec i s with
    | next u => rw [hi] at h; rw [List.cons_append, execAll_cons hi]; exact ih h
    | fault f => rw [hi] at h; cases h
    | refused r => rw [hi] at h; cases h

end Sys2Proof.Machine
end

