-- ==== Sys2Proof/Laws/PerInstr.lean ====
section
/-! SUPPORT. Per command: its encoding lies in its own row of the opcode table, so every bit the row fixes
is as `spec/opcode_table.json` gives it (family `FitsRow`). -/

namespace Sys2Proof.Laws.FitsRow

/-- The encoded word of the command fits the row of its mnemonic. -/
def Statement (i : Instr) : Prop :=
  ∃ r ∈ opTable, r.mnemonic = i.mnemonic ∧ r.fits (encode i) = true

/-- A word fits a row when it agrees with it on every bit. -/
theorem fits_of_bits {r : OpRow} {w : CmdWord}
    (h : ∀ i : Fin 64, (w.getLsbD i && r.mask.getLsbD i) = r.pattern.getLsbD i) : r.fits w = true := by
  rw [OpRow.fits, beq_iff_eq]
  apply BitVec.eq_of_getLsbD_eq
  intro i hi
  rw [BitVec.getLsbD_and]
  exact h ⟨i, hi⟩

theorem nop : Statement .nop := ⟨opTable[0], by decide, by decide, by decide⟩
theorem crcInit : Statement .crcInit := ⟨opTable[1], by decide, by decide, by decide⟩

theorem crcFeed (b : Byte) : Statement (.crcFeed b) :=
  ⟨opTable[2], by decide, rfl, fits_of_bits fun i => by
    rw [encode, encodeB_bit]; fin_cases i <;> simp [opTable]⟩

theorem crcBuf (buf : Buf) (n : Byte) : Statement (.crcBuf buf n) :=
  ⟨opTable[3], by decide, rfl, fits_of_bits fun i => by
    rw [encode, encodeS_bit]; fin_cases i <;> simp [opTable]⟩

theorem crcVerify (buf : Buf) (n : Byte) : Statement (.crcVerify buf n) :=
  ⟨opTable[4], by decide, rfl, fits_of_bits fun i => by
    rw [encode, encodeS_bit]; fin_cases i <;> simp [opTable]⟩

theorem crcAppend (buf : Buf) (n : Byte) : Statement (.crcAppend buf n) :=
  ⟨opTable[5], by decide, rfl, fits_of_bits fun i => by
    rw [encode, encodeS_bit]; fin_cases i <;> simp [opTable]⟩

theorem buildReg (addr func : Byte) (reg val : Half) : Statement (.buildReg addr func reg val) :=
  ⟨opTable[6], by decide, rfl, fits_of_bits fun i => by
    rw [encode, encodeF_bit]; fin_cases i <;> simp [opTable]⟩

theorem buildReset (addr : Byte) : Statement (.buildReset addr) :=
  ⟨opTable[7], by decide, rfl, fits_of_bits fun i => by
    rw [encode, encodeA_bit]; fin_cases i <;> simp [opTable]⟩

theorem rxClear : Statement .rxClear := ⟨opTable[8], by decide, by decide, by decide⟩

theorem rxPush (b : Byte) : Statement (.rxPush b) :=
  ⟨opTable[9], by decide, rfl, fits_of_bits fun i => by
    rw [encode, encodeB_bit]; fin_cases i <;> simp [opTable]⟩

theorem parse (n : Byte) : Statement (.parse n) :=
  ⟨opTable[10], by decide, rfl, fits_of_bits fun i => by
    rw [encode, encodeB_bit]; fin_cases i <;> simp [opTable]⟩

theorem echoCheck : Statement .echoCheck := ⟨opTable[11], by decide, by decide, by decide⟩
theorem decode : Statement .decode := ⟨opTable[12], by decide, by decide, by decide⟩

/-- No two rows of the opcode table have a word in common. -/
theorem rows_disjoint :
    opTable.Pairwise (fun a b => a.pattern &&& (a.mask &&& b.mask) ≠ b.pattern &&& (a.mask &&& b.mask)) := by
  decide

end Sys2Proof.Laws.FitsRow
end

