-- ==== Sys2Proof/Machine/Assembler.lean ====
section
/-! DEFINITION. The assembler text of a command (`30_encoding.md` R110): `MNEMONIC` followed by its
operands separated by commas, numbers in decimal. -/

namespace Sys2Proof.Machine

/-- `buf` is `tx` or `rx` (R110). -/
def bufText : Buf → String
  | .tx => "tx"
  | .rx => "rx"

/-- The operands of a command in the order R110 gives them. -/
def operandTexts : Instr → List String
  | .crcFeed b                  => [toString b.toNat]
  | .crcBuf buf n               => [bufText buf, toString n.toNat]
  | .crcVerify buf n            => [bufText buf, toString n.toNat]
  | .crcAppend buf n            => [bufText buf, toString n.toNat]
  | .buildReg addr func reg val =>
    [toString addr.toNat, toString func.toNat, toString reg.toNat, toString val.toNat]
  | .buildReset addr            => [toString addr.toNat]
  | .rxPush b                   => [toString b.toNat]
  | .parse n                    => [toString n.toNat]
  | .nop                        => []
  | .crcInit                    => []
  | .rxClear                    => []
  | .echoCheck                  => []
  | .decode                     => []

/-- The operands separated by commas. -/
def joinTexts : List String → String
  | []      => ""
  | [t]     => t
  | t :: ts => t ++ ", " ++ joinTexts ts

/-- One line of assembler text (R110). -/
def assemblerText (i : Instr) : String :=
  match operandTexts i with
  | []      => i.mnemonic
  | t :: ts => i.mnemonic ++ " " ++ joinTexts (t :: ts)

end Sys2Proof.Machine
end

