-- ==== Sys2Proof/Tests/Slice0.lean ====
section
/-! SUPPORT. Small tests of single steps, with expected values from `95_test_vectors.md` or from the
examples in the rules, and a witness for each hypothesis and clause of the statements. -/

namespace Sys2Proof.Tests

open Sys2Proof Sys2Proof.Machine

set_option maxRecDepth 20000

/-! ## Helpers -/

/-- The next state of an outcome, if it has one. -/
def nextOf : Host.Outcome State Fault Refusal → Option State
  | .next s    => some s
  | .fault _   => none
  | .refused _ => none

/-- The state after one command. -/
def after (i : Instr) (s : State) : State := (nextOf (exec i s)).getD s

/-- A command that answers a next state answers the state `after` gives. -/
theorem next_after {i : Instr} {s : State} (h : (nextOf (exec i s)).isSome = true) :
    exec i s = .next (after i s) := by
  unfold after
  cases he : exec i s with
  | next t => rfl
  | fault f => rw [he] at h; cases h
  | refused r => rw [he] at h; cases h

/-- The reset state with the bytes in `RX`, as that many pushes leave them. -/
def loaded (bytes : List Byte) : State :=
  { State.reset with rx := memWrite [] 0 (bytes.take 25), rxcnt := BitVec.ofNat 8 bytes.length }

/-- The bytes loaded and parsed at their own length. -/
def parsed (bytes : List Byte) : State :=
  after (.parse (BitVec.ofNat 8 bytes.length)) (loaded bytes)

/-- The request frame of `95_test_vectors.md` S3. -/
def s3 : State := after (.buildReg 0x01 0x06 0x0002 0x0005) State.reset

/-- The reset frame of rule R201's example. -/
def resetF8 : State := after (.buildReset 0xF8) State.reset

/-- Frame V1 of part 2.5. -/
def frameV1 : List Byte :=
  [0xF8, 0x04, 0x14, 0x08, 0xFD, 0x04, 0xD2, 0x00, 0x00, 0x0B, 0x19, 0x00, 0x00, 0xE2, 0x40, 0x00, 0x01,
   0x01, 0xF4, 0x00, 0x5F, 0x00, 0x00, 0x18, 0xB9]

/-- Frame V2 of part 2.5. -/
def frameV2 : List Byte :=
  [0xF8, 0x04, 0x14, 0x00, 0xE6, 0x56, 0x78, 0x12, 0x34, 0xFF, 0xFF, 0xFF, 0xFF, 0xE2, 0x40, 0x00, 0x01,
   0x01, 0xF4, 0x00, 0x64, 0xFF, 0xFF, 0x5B, 0x69]

/-- The echo frame of program P2. -/
def frameP2 : List Byte := [0xF8, 0x06, 0x00, 0x02, 0x00, 0x01, 0xFD, 0xA3]

/-! ## Well-formedness: an ill-formed word for each check (R101 to R106, R109; part 2.6) -/

theorem test_wf_undefined_opcode : wordWellFormed 0x0600000000000000#64 = false := by decide
theorem test_wf_all_ones : wordWellFormed 0xFFFFFFFFFFFFFFFF#64 = false := by decide
theorem test_wf_formatN : wordWellFormed 0x0000000000000001#64 = false := by decide
theorem test_wf_formatB : wordWellFormed 0x2100000000000100#64 = false := by decide
theorem test_wf_formatS : wordWellFormed 0x0300000000000200#64 = false := by decide
theorem test_wf_formatF : wordWellFormed 0x1001000000000000#64 = false := by decide
theorem test_wf_formatA_low : wordWellFormed 0x1100F80000000001#64 = false := by decide
theorem test_wf_formatA_high : wordWellFormed 0x1101F80000000000#64 = false := by decide
theorem test_wf_formatE : wordWellFormed 0x2200000000000119#64 = false := by decide
theorem test_wf_legal : wordWellFormed 0x0500000000000108#64 = true := by decide

/-! ## Decoding: a word written out from the encoding of each command (R101 to R108) -/

theorem test_decode_nop : decode 0x0000000000000000#64 = .ok .nop := by rfl
theorem test_decode_crcInit : decode 0x0100000000000000#64 = .ok .crcInit := by rfl
theorem test_decode_crcFeed : decode 0x0200000000000042#64 = .ok (.crcFeed 0x42) := by rfl
theorem test_decode_crcBuf : decode 0x0300000000000006#64 = .ok (.crcBuf .tx 6) := by rfl
theorem test_decode_crcVerify : decode 0x0400000000000108#64 = .ok (.crcVerify .rx 8) := by rfl
theorem test_decode_crcAppend : decode 0x0500000000000108#64 = .ok (.crcAppend .rx 8) := by rfl
theorem test_decode_buildReg :
    decode 0x1000010600020005#64 = .ok (.buildReg 0x01 0x06 0x0002 0x0005) := by rfl
theorem test_decode_buildReset : decode 0x1100F80000000000#64 = .ok (.buildReset 0xF8) := by rfl
theorem test_decode_rxClear : decode 0x2000000000000000#64 = .ok .rxClear := by rfl
theorem test_decode_rxPush : decode 0x21000000000000A3#64 = .ok (.rxPush 0xA3) := by rfl
theorem test_decode_parse : decode 0x2200000000000019#64 = .ok (.parse 25) := by rfl
theorem test_decode_echoCheck : decode 0x2300000000000000#64 = .ok .echoCheck := by rfl
theorem test_decode_decode : decode 0x3000000000000000#64 = .ok .decode := by rfl
theorem test_decode_reserved : decode 0x0100000000000001#64 = .error (.reservedBits "CRC_INIT") := by rfl
theorem test_decode_undefined : decode 0x1200000000000000#64 = .error (.undefinedOpcode 0x12) := by rfl
theorem test_decodeTableWord :
    decodeTableWord 64 0x1000FFFFFFFFFFFF = some (.buildReg 0xFF 0xFF 0xFFFF 0xFFFF) := by decide
theorem test_encode_buildReg : encode (.buildReg 0xF8 0x06 0x0002 0x0001) = 0x1000F80600020001#64 := by
  decide

/-! ## The checksum functions (part 2.1) -/

theorem test_crc_check_value :
    crc16 [0x31, 0x32, 0x33, 0x34, 0x35, 0x36, 0x37, 0x38, 0x39] = 0x4B37 := by decide
theorem test_crc_step : crcStep 0xFFFF 0xF8 = 0xC2BE := by decide
theorem test_crc_table : crcTable 0x80 = 0xA001 ∧ crcTable 0xFF = 0x4040 := by decide
theorem test_verify_zero_trailer : verify [0xFF, 0xFF, 0x00, 0x00] = true := by decide
theorem test_verify_big_endian : verify [0xF8, 0x42, 0x41, 0xC2] = false := by decide
theorem test_append_two : append [0xAA, 0xBB] = .ok [0xFF, 0xFF] := by rfl
theorem test_append_one : append [0xAA] = .error .appendTooShort := by rfl

/-! ## The commands, one step each -/

/-- R154's example. -/
theorem test_nop_overwrites_error :
    (after .nop { State.reset with status := 0x02 }).status = 0x00 := by decide
/-- R180's example. -/
theorem test_crcInit : (after .crcInit { State.reset with crc := 0x1234 }).crc = 0xFFFF := by decide
/-- R181's corner case. -/
theorem test_crcFeed_zero : (after (.crcFeed 0x00) State.reset).crc = 0x40BF := by decide
/-- R182's example. -/
theorem test_crcBuf : (after (.crcBuf .tx 6) s3).crc = 0x09E8 := by decide
/-- Part 2.2: 9 is beyond `TXLEN` = 8. -/
theorem test_crcBuf_beyond :
    (after (.crcBuf .tx 9) s3).result = 5 ∧ (after (.crcBuf .tx 9) s3).crc = 0xFFFF := by decide
/-- R183's example. -/
theorem test_crcVerify : (after (.crcVerify .tx 4) resetF8).status = 0x10 := by decide
/-- R183's example: one byte short. -/
theorem test_crcVerify_short : (after (.crcVerify .tx 3) resetF8).status = 0x02 := by decide
/-- R184's example. -/
theorem test_crcAppend :
    memRead (after (.crcAppend .rx 8) (loaded [0x01, 0x06, 0x00, 0x02, 0x00, 0x05, 0x00, 0x00])).rx 6 2
      = [0xE8, 0x09] := by decide
/-- Part 2.2: two bytes have the trailer of the empty list. -/
theorem test_crcAppend_two : memRead (after (.crcAppend .tx 2) resetF8).tx 0 4
    = [0xFF, 0xFF, 0xC2, 0x41] := by decide
/-- S3, R200's example. -/
theorem test_buildReg :
    memRead s3.tx 0 8 = [0x01, 0x06, 0x00, 0x02, 0x00, 0x05, 0xE8, 0x09] ∧ s3.txlen = .eight := by decide
/-- Part 2.3: nothing of an earlier frame survives a reset frame. -/
theorem test_buildReset :
    memRead (after (.buildReset 0x01) s3).tx 0 8 = [0x01, 0x42, 0x80, 0x11, 0x00, 0x00, 0x00, 0x00] := by
  decide
/-- R202's example. -/
theorem test_rxClear :
    (after .rxClear (parsed frameV1)).rxcnt = 0 ∧ (after .rxClear (parsed frameV1)).pv = false := by decide
/-- R203: the 26th push. -/
theorem test_rxPush_full : (after (.rxPush 0x00) (loaded frameV1)).rxcnt = 26
    ∧ (after (.rxPush 0x00) (loaded frameV1)).status = 0x80 := by decide
/-- R203: the count saturates. -/
theorem test_rxPush_saturates :
    (after (.rxPush 0x00) { State.reset with rxcnt := 255 }).rxcnt = 255 := by decide
/-- R204's example, S5. -/
theorem test_parse_device_error : (parsed [0x01, 0x84, 0x02, 0xC2, 0xC1]).deverr = 0x0202
    ∧ (parsed [0x01, 0x84, 0x02, 0xC2, 0xC1]).status = 0x03 := by decide
/-- Part 2.4: the length check comes first, too many bytes included. -/
theorem test_parse_too_many : (after (.parse 25) (loaded (frameV1 ++ [0x00]))).result = 1 := by decide
/-- R205's example, P2. -/
theorem test_echoCheck :
    (after .echoCheck (after (.buildReg 0xF8 0x06 0x0002 0x0001) (parsed frameP2))).status = 0x20 := by
  decide
/-- Part 2.4: an echo of another length. -/
theorem test_echoCheck_length : (after .echoCheck (after (.buildReset 0xF8) (parsed frameP2))).result = 4 := by
  decide
/-- Part 2.5: frame V2, with the interleaving. -/
theorem test_decode_v2 : (after .decode (parsed frameV2)).meas
    = ⟨0x00E6, 0x12345678, 0xFFFFFFFF, 0x0001E240, 0x01F4, 0x0064, 0xFFFF⟩ := by decide
/-- Part 2.5: `DECODE` after a passing `PARSE 8`. -/
theorem test_decode_length : (after .decode (parsed frameP2)).status = 0x25 := by decide

/-! ## The port and the host's view -/

/-- R153's example: an illegal word from reset. -/
theorem test_illegal_word : (nextOf (step (State.reset.issue 0x0600000000000000#64))).map (·.status)
    = some 0x06 := by decide
/-- `withFetchWord` places the word the next step runs. -/
theorem test_withFetchWord :
    (nextOf (step (State.reset.withFetchWord 64 0x0200000000000000))).map (·.crc) = some 0x40BF := by decide
/-- R43, I4: a read of `MEAS` before the first `DECODE`. -/
theorem test_read_meas_faults :
    step { State.reset with pending := [.read .measV] } = .fault .measBeforeDecode := by rfl
/-- R33: a read of `CRC`. -/
theorem test_read_crc : (nextOf (step { State.reset with pending := [.read .crc] })).map (·.readData)
    = some 0xFFFF := by decide
/-- R330: the reset input clears a decoded frame. -/
theorem test_reset_input :
    (nextOf (step { after .decode (parsed frameV1) with pending := [.reset] })) = some State.reset := by
  decide
/-- S4: 230 is 23 V. -/
theorem test_scaled_voltage :
    scaledValue .voltage { State.reset with status := 0x40, meas := ⟨230, 0, 0, 0, 0, 0, 0⟩ } = .ok 23 := by
  rw [scaledValue, if_pos (by decide)]
  congr 1
  norm_num [State.raw, Quantity.divisor, params, show (230 : Half).toNat = 230 from rfl]
/-- R255: another alarm value is no state. -/
theorem test_alarm_undefined :
    alarmState { State.reset with status := 0x40, meas := ⟨0, 0, 0, 0, 0, 0, 1⟩ } = .refused .alarmUndefined := by
  rfl
/-- I5: a byte beyond the fill is no frame data. -/
theorem test_frameByte : frameByte .tx 4 resetF8 = .error .notFrameData := by rfl
/-- R110, R111: the text and the expansion of a measurement read. -/
theorem test_readBlock : (expand (.readBlock 0xF8)).map encode = [0x1000F8040000000A#64] := by decide
theorem test_assembler : assemblerText (.crcBuf .tx 6) = "CRC_BUF tx, 6" := by decide

/-! ## Witnesses: for each statement with hypotheses, a state and operands that meet them -/

theorem witness_ResetInputRestoresEveryRegister :
    ({ parsed frameV1 with pending := [.reset, .read .crc] } : State).pending = .reset :: [.read .crc] := by rfl
theorem witness_StepRunsTheDecodedCommand :
    (State.reset.issue 0x2200000000000019#64).pending = .command 0x2200000000000019#64 :: []
      ∧ decode 0x2200000000000019#64 = .ok (.parse 25) := ⟨rfl, rfl⟩
theorem witness_IdleBlockKeepsAllState : s3.pending = [] := by decide
theorem witness_NoCommandTouchesThePort : exec .nop s3 = .next (after .nop s3) := next_after (by decide)
theorem witness_EncodeOfDecodeIsTheWord : decode 0x0300000000000101#64 = .ok (.crcBuf .rx 1) := by rfl
theorem witness_IllegalWordIsBadOpcode : wordWellFormed 0x1001000000000000#64 = false := by decide
theorem witness_OnlyThreeCommandsTouchCrc_buf : (8#8).toNat ≤ s3.fill .tx := by decide
theorem witness_OnlyThreeCommandsTouchCrc_other : Instr.decode ≠ .crcInit ∧ (∀ b, Instr.decode ≠ .crcFeed b)
    ∧ (∀ buf n, Instr.decode ≠ .crcBuf buf n) ∧ exec .decode s3 = .next (after .decode s3) :=
  ⟨by decide, fun _ => by simp, fun _ _ => by simp, next_after (by decide)⟩
theorem witness_EachRegisterHasItsWriters_txlen :
    exec (.buildReset 1) s3 = .next (after (.buildReset 1) s3)
      ∧ (after (.buildReset 1) s3).txlen ≠ s3.txlen := ⟨next_after (by decide), by decide⟩
theorem witness_EachRegisterHasItsWriters_tx :
    exec (.crcAppend .tx 2) s3 = .next (after (.crcAppend .tx 2) s3)
      ∧ readByte (after (.crcAppend .tx 2) s3).tx 1 ≠ readByte s3.tx 1 := ⟨next_after (by decide), by decide⟩
theorem witness_EachRegisterHasItsWriters_rx :
    exec (.rxPush 7) s3 = .next (after (.rxPush 7) s3)
      ∧ readByte (after (.rxPush 7) s3).rx 0 ≠ readByte s3.rx 0
      ∧ (after (.rxPush 7) s3).rxcnt ≠ s3.rxcnt := ⟨next_after (by decide), by decide, by decide⟩
theorem witness_EachRegisterHasItsWriters_rxovf :
    exec (.rxPush 7) (loaded frameV1) = .next (after (.rxPush 7) (loaded frameV1))
      ∧ (after (.rxPush 7) (loaded frameV1)).rxovf ≠ (loaded frameV1).rxovf := ⟨next_after (by decide), by decide⟩
theorem witness_EachRegisterHasItsWriters_vok :
    exec (.crcVerify .tx 8) s3 = .next (after (.crcVerify .tx 8) s3)
      ∧ (after (.crcVerify .tx 8) s3).vok ≠ s3.vok := ⟨next_after (by decide), by decide⟩
theorem witness_EachRegisterHasItsWriters_deverr :
    exec (.parse 5) (loaded [0x01, 0x84, 0x02, 0xC2, 0xC1])
        = .next (after (.parse 5) (loaded [0x01, 0x84, 0x02, 0xC2, 0xC1]))
      ∧ (after (.parse 5) (loaded [0x01, 0x84, 0x02, 0xC2, 0xC1])).deverr
        ≠ (loaded [0x01, 0x84, 0x02, 0xC2, 0xC1]).deverr := ⟨next_after (by decide), by decide⟩
theorem witness_EachRegisterHasItsWriters_meas :
    exec .decode (parsed frameV1) = .next (after .decode (parsed frameV1))
      ∧ (after .decode (parsed frameV1)).meas ≠ (parsed frameV1).meas := ⟨next_after (by decide), by decide⟩
theorem witness_MvMarksADecodedFrame_step : exec .nop s3 = .next (after .nop s3)
    ∧ (s3.mv = false → s3.meas = Meas.none) ∧ (after .nop s3).mv = false := ⟨next_after (by decide), by decide, by decide⟩
theorem witness_MvMarksADecodedFrame_read : HostReg.measAL.isMeas = true ∧ s3.mv = false := by decide
theorem witness_PvMarksAValidatedPayload_parse :
    exec (.parse 8) (loaded frameP2) = .next (after (.parse 8) (loaded frameP2))
      ∧ (after (.parse 8) (loaded frameP2)).result = 0 := ⟨next_after (by decide), by decide⟩
theorem witness_PvMarksAValidatedPayload_without : exec .echoCheck s3 = .next (after .echoCheck s3)
    ∧ s3.pv = false := ⟨next_after (by decide), by decide⟩
theorem witness_PvMarksAValidatedPayload_payload : (parsed frameP2).pv = true ∧ (parsed frameP2).PayloadOk :=
  ⟨by decide, fun _ => by decide⟩
theorem witness_PvlenFollowsPv : exec (.crcAppend .rx 8) (parsed frameP2)
    = .next (after (.crcAppend .rx 8) (parsed frameP2)) := next_after (by decide)
theorem witness_NoCommandReadsBeyondTheFill : resetF8.PayloadOk
    ∧ (∀ k, k < resetF8.fill .tx → readByte (writeByte resetF8.tx 4 9) k = readByte resetF8.tx k)
    ∧ (∀ k, k < resetF8.fill .rx → readByte (writeByte [] 0 9) k = readByte resetF8.rx k)
    ∧ exec (.crcVerify .tx 4) resetF8 = .next (after (.crcVerify .tx 4) resetF8) :=
  ⟨fun h => by simp only [show resetF8.pv = false from by decide, Bool.false_eq_true] at h, by decide, by decide, next_after (by decide)⟩
theorem witness_EveryStepKeepsTheInvariant_reset : State.reset.Inv :=
  ⟨by decide, by decide, by decide, by decide, by decide, by decide, fun _ _ => rfl, fun _ _ => rfl,
    by decide, fun h => absurd h (by decide), by decide, by decide⟩
theorem witness_EveryStepKeepsTheInvariant_step :
    step (State.reset.issue 0#64) = .next (after .nop State.reset) := by rfl
theorem witness_LawsOfVerifyAndAppend_long : 2 < ([1, 2, 3] : List Byte).length := by decide
theorem witness_LawsOfVerifyAndAppend_short : ([1, 2] : List Byte).length ≤ 2 := by decide
theorem witness_SameBodySameTrailer : verify frameP2 = true ∧ verify [0xF8, 0x06, 0x00, 0x02, 0x00, 0x01, 0xFD, 0xA3] = true
    ∧ frameP2.length = 8 ∧ frameP2.take (frameP2.length - 2) = [0xF8, 0x06, 0x00, 0x02, 0x00, 0x01] := by decide
theorem witness_CrcBufRule_beyond : s3.fill .tx < (9#8).toNat := by decide
theorem witness_CrcBufRule_within : (8#8).toNat ≤ s3.fill .tx := by decide
theorem witness_CrcVerifyRule_beyond : resetF8.fill .tx < (5#8).toNat := by decide
theorem witness_CrcVerifyRule_within : (4#8).toNat ≤ resetF8.fill .tx := by decide
theorem witness_CrcVerifyRule_two : (2#8).toNat ≤ resetF8.fill .tx ∧ (2#8).toNat ≤ 2 := by decide
theorem witness_CrcAppendRule_beyond : (loaded frameP2).fill .rx < (9#8).toNat := by decide
theorem witness_CrcAppendRule_one : (1#8).toNat < 2 := by decide
theorem witness_CrcAppendRule_two : (2#8).toNat ≤ resetF8.fill .tx ∧ 2 ≤ (2#8).toNat := by decide
theorem witness_CrcAppendRule_rx : (25#8).toNat ≤ (loaded frameV1).fill .rx ∧ 2 ≤ (25#8).toNat := by decide
theorem witness_AppendedTrailerVerifies : (3#8).toNat ≤ (loaded frameP2).fill .rx ∧ 3 ≤ (3#8).toNat := by decide
theorem witness_RxPushRule_room : (loaded (frameV1.take 24)).rxcnt.toNat < 25 := by decide
theorem witness_RxPushRule_full : 25 ≤ (loaded frameV1).rxcnt.toNat := by decide
theorem witness_ParseRule_capacity : 25 < (26#8).toNat := by decide
theorem witness_ParseRule_count : ¬ 25 < (25#8).toNat ∧ (loaded frameP2).rxcnt ≠ 25 := by decide
theorem witness_ParseRule_checksum : (loaded [0xFF, 0xFF]).rxcnt = 2
    ∧ verify (memRead (loaded [0xFF, 0xFF]).rx 0 2) = false := by decide
theorem witness_ParseRule_marker :
    verify (memRead (loaded [0x01, 0x84, 0x02, 0xC2, 0xC1]).rx 0 5) = true
      ∧ (readByte (loaded [0x01, 0x84, 0x02, 0xC2, 0xC1]).rx 1).getLsbD 7 = true := by decide
theorem witness_ParseRule_ok : (loaded frameV1).rxcnt = 25 ∧ verify (memRead (loaded frameV1).rx 0 25) = true
    ∧ (readByte (loaded frameV1).rx 1).getLsbD 7 = false := by decide
theorem witness_EchoCheckRule_none : s3.pv = false := by decide
theorem witness_EchoCheckRule_length : (parsed frameP2).pv = true
    ∧ (parsed frameP2).pvlen.toNat ≠ (parsed frameP2).txlen.toNat := by decide
theorem witness_EchoCheckRule_byte :
    (after (.buildReg 1 6 2 5) (parsed frameP2)).pv = true
      ∧ (after (.buildReg 1 6 2 5) (parsed frameP2)).pvlen.toNat
        = (after (.buildReg 1 6 2 5) (parsed frameP2)).txlen.toNat
      ∧ readByte (after (.buildReg 1 6 2 5) (parsed frameP2)).rx 0
        ≠ readByte (after (.buildReg 1 6 2 5) (parsed frameP2)).tx 0 := by decide
theorem witness_EchoCheckRule_same :
    (after (.buildReg 0xF8 6 2 1) (parsed frameP2)).pvlen.toNat
        = (after (.buildReg 0xF8 6 2 1) (parsed frameP2)).txlen.toNat
      ∧ ∀ k, k < (after (.buildReg 0xF8 6 2 1) (parsed frameP2)).txlen.toNat →
        readByte (after (.buildReg 0xF8 6 2 1) (parsed frameP2)).rx k
          = readByte (after (.buildReg 0xF8 6 2 1) (parsed frameP2)).tx k := by decide
theorem witness_DecodeRule_none : State.reset.pv = false := by decide
theorem witness_DecodeRule_length : (parsed frameP2).pv = true ∧ (parsed frameP2).pvlen.toNat ≠ 25 := by decide
theorem witness_DecodeRule_ok : (parsed frameV1).pv = true ∧ (parsed frameV1).pvlen.toNat = 25 := by decide
theorem witness_ScaledValuesAreExact : (after .decode (parsed frameV1)).mv = true := by decide
theorem witness_AlarmReadsAsTwoStatesOnly_inactive : (after .decode (parsed frameV1)).mv = true
    ∧ (after .decode (parsed frameV1)).meas.al = 0x0000 := by decide
theorem witness_AlarmReadsAsTwoStatesOnly_active : (after .decode (parsed frameV2)).mv = true
    ∧ (after .decode (parsed frameV2)).meas.al = 0xFFFF := by decide
theorem witness_AlarmReadsAsTwoStatesOnly_other :
    ({ State.reset with status := 0x40, meas := ⟨0, 0, 0, 0, 0, 0, 1⟩ } : State).mv = true
      ∧ ({ State.reset with status := 0x40, meas := ⟨0, 0, 0, 0, 0, 0, 1⟩ } : State).meas.al ≠ 0x0000
      ∧ ({ State.reset with status := 0x40, meas := ⟨0, 0, 0, 0, 0, 0, 1⟩ } : State).meas.al ≠ 0xFFFF := by
  decide
theorem witness_HostReadReturnsAndKeeps :
    ({ after .decode (parsed frameV1) with pending := [.read .measV] } : State).pending = .read .measV :: []
      ∧ HostReg.measV.exists? = true ∧ (after .decode (parsed frameV1)).mv = true := ⟨rfl, rfl, by decide⟩
theorem witness_BadHostReadFaults_meas :
    ({ State.reset with pending := [.read .measE] } : State).pending = .read .measE :: []
      ∧ HostReg.measE.isMeas = true ∧ State.reset.mv = false := ⟨rfl, rfl, rfl⟩
theorem witness_BadHostReadFaults_tx :
    ({ State.reset with pending := [.read (.tx 8)] } : State).pending = .read (.tx 8) :: []
      ∧ step { State.reset with pending := [.read (.tx 8)] } = .fault .noSuchBufferByte := ⟨rfl, rfl⟩
theorem witness_BadHostReadFaults_rx :
    ({ State.reset with pending := [.read (.rx 25)] } : State).pending = .read (.rx 25) :: []
      ∧ step { State.reset with pending := [.read (.rx 25)] } = .fault .noSuchBufferByte := ⟨rfl, rfl⟩
/-- The last byte that exists is read, so the two clauses on buffers stop where they should. -/
theorem witness_BadHostReadFaults_edge :
    (nextOf (step { resetF8 with pending := [.read (.tx 7)] })).isSome = true
      ∧ (nextOf (step { resetF8 with pending := [.read (.rx 24)] })).isSome = true := by decide

end Sys2Proof.Tests
end

