-- ==== Sys2Proof/Proofs/State.lean ====
section
/-! The family `10_state.md`: the reset state, and the registers `CRC`, `MV` and `PV`. What a command does
to them is said in two shared lemmas: `exec_setCrc` (every command but three commutes with a change of
`CRC`) and `exec_keepsResponse` (a command that does not work on the response keeps all of its side). -/

namespace Sys2Proof.Proofs

open Sys2Proof.Machine

/-! ## The reset state -/

/-- Settles O1: the registers of R30, one by one. -/
theorem resetStateIsTheTableOfR51 : Obligations.ResetStateIsTheTableOfR51 := by
  refine ⟨fun r => ?_, reset_result, reset_vok, reset_pv, reset_mv, reset_rxovf⟩
  cases r <;> rfl

/-! ## `CRC` (R34) -/

/-- The outcome with its next state changed by `f`; a fault or a refusal stays. -/
def mapNext (f : State → State) : Host.Outcome State Fault Refusal → Host.Outcome State Fault Refusal
  | .next s    => .next (f s)
  | .fault r   => .fault r
  | .refused r => .refused r

/-- A push neither reads nor writes `CRC`. -/
theorem pushRx_setCrc (s : State) (b : Byte) (c : Half) :
    (s.setCrc c).pushRx b = (s.pushRx b).setCrc c := by
  simp only [State.pushRx, apply_ite (State.setCrc · c)]
  rfl

/-- A command that is none of R34's three writers commutes with a change of `CRC`: it neither reads nor
writes it. The guards of a command do not mention `CRC`, so both sides take the same branch. -/
theorem exec_setCrc {i : Instr} (hinit : i ≠ .crcInit) (hfeed : ∀ b, i ≠ .crcFeed b)
    (hbuf : ∀ buf n, i ≠ .crcBuf buf n) (s : State) (c : Half) :
    exec i (s.setCrc c) = mapNext (State.setCrc · c) (exec i s) := by
  cases i with
  | crcInit => exact absurd rfl hinit
  | crcFeed b => exact absurd rfl (hfeed b)
  | crcBuf buf n => exact absurd rfl (hbuf buf n)
  | nop | buildReg | buildReset | rxClear => rfl
  | rxPush b =>
    show Host.Outcome.next (((s.setCrc c).pushRx b).clearPv).finish = _
    rw [pushRx_setCrc]; rfl
  | crcVerify buf n =>
    cases buf <;> simp only [exec, execCrcVerify, apply_ite (mapNext _)] <;> rfl
  | crcAppend buf n =>
    cases buf <;> simp only [exec, execCrcAppend, apply_ite (mapNext _)] <;> rfl
  | parse n => simp only [exec, execParse, apply_ite (mapNext _)]; rfl
  | echoCheck => simp only [exec, execEchoCheck, apply_ite (mapNext _)]; rfl
  | decode => simp only [exec, execDecode, apply_ite (mapNext _)]; rfl

/-- Settles O14. That a fourth command keeps `CRC` follows from `exec_setCrc` with the value `CRC` already
holds: the next state is then its own `setCrc s.crc`. -/
theorem onlyThreeCommandsTouchCrc : Obligations.OnlyThreeCommandsTouchCrc := by
  refine ⟨fun s => ⟨_, rfl, rfl⟩, fun b s => ⟨_, rfl, rfl⟩,
    fun buf n s hn => ⟨_, if_neg (Nat.not_lt.mpr hn), rfl⟩, fun i s t c hinit hfeed hbuf h => ?_⟩
  have comm (c : Half) : exec i (s.setCrc c) = .next (t.setCrc c) := by
    rw [exec_setCrc hinit hfeed hbuf, h]; rfl
  have same : Host.Outcome.next t = .next (t.setCrc s.crc) := h.symm.trans (comm s.crc)
  have hcrc : t.crc = (t.setCrc s.crc).crc := congrArg State.crc (Host.Outcome.next.inj same)
  exact ⟨hcrc, comm c⟩

/-! ## The response side -/

/-- The commands that work on the response: they write `RX`, `PV` or `MEAS`. -/
def onResponse : Instr → Bool
  | .crcAppend .rx _ | .rxClear | .rxPush _ | .parse _ | .decode => true
  | _ => false

/-- The response side of the block, unchanged: the bytes received and what was concluded from them. -/
structure KeepsResponse (s t : State) : Prop where
  rx     : t.rx = s.rx
  rxcnt  : t.rxcnt = s.rxcnt
  rxovf  : t.rxovf = s.rxovf
  pv     : t.pv = s.pv
  pvlen  : t.pvlen = s.pvlen
  deverr : t.deverr = s.deverr
  mv     : t.mv = s.mv
  meas   : t.meas = s.meas

theorem keepsResponse_raise (s : State) (r : Result) : KeepsResponse s (s.raise r) := by
  constructor <;> simp

/-- Every command that does not work on the response leaves its side unchanged. -/
theorem exec_keepsResponse {i : Instr} {s t : State} (h : exec i s = .next t)
    (hi : onResponse i = false) : KeepsResponse s t := by
  cases i with
  | rxClear | rxPush | parse | decode => cases hi
  | nop | crcInit | crcFeed | buildReg | buildReset => cases h; constructor <;> simp
  | crcBuf =>
    obtain ⟨-, rfl⟩ | ⟨-, rfl⟩ := execCrcBuf_cases h
    · exact keepsResponse_raise s _
    · constructor <;> simp
  | crcVerify =>
    obtain ⟨-, rfl⟩ | ⟨-, -, rfl⟩ | ⟨-, -, rfl⟩ := execCrcVerify_cases h
    · exact keepsResponse_raise s _
    · constructor <;> simp
    · constructor <;> simp
  | crcAppend =>
    obtain ⟨-, rfl⟩ | ⟨-, -, -, rfl⟩ | ⟨rfl, -⟩ := execCrcAppend_cases h
    · exact keepsResponse_raise s _
    · constructor <;> simp
    · cases hi
  | echoCheck =>
    obtain ⟨-, rfl⟩ | ⟨-, -, rfl⟩ | ⟨-, -, -, rfl⟩ | ⟨-, -, -, rfl⟩ := execEchoCheck_cases h <;>
      exact keepsResponse_raise s _

/-! ## `MV` (R43) -/

/-- No command but `DECODE` touches `MV` or `MEAS`. -/
theorem exec_keeps_mv_meas {i : Instr} {s t : State} (h : exec i s = .next t) (hi : i ≠ .decode) :
    t.mv = s.mv ∧ t.meas = s.meas := by
  cases i with
  | decode => exact absurd rfl hi
  | rxClear | rxPush => cases h; simp
  | crcAppend =>
    obtain ⟨-, rfl⟩ | ⟨-, -, -, rfl⟩ | ⟨-, -, -, rfl⟩ := execCrcAppend_cases h <;> simp
  | parse =>
    obtain ⟨-, rfl⟩ | ⟨-, -, rfl⟩ | ⟨-, -, -, rfl⟩ | ⟨-, -, -, -, rfl⟩ | ⟨-, -, -, -, rfl⟩ :=
      execParse_cases h <;> simp
  | _ => exact ⟨(exec_keepsResponse h rfl).mv, (exec_keepsResponse h rfl).meas⟩

/-- What `DECODE` does to `MV` and `MEAS`: it succeeds and sets `MV`, or fails and keeps both (R250). -/
theorem execDecode_mv_meas {s t : State} (h : execDecode s = .next t) :
    (t.result = 0 ∧ t.mv = true) ∨ (t.result ≠ 0 ∧ t.mv = s.mv ∧ t.meas = s.meas) := by
  obtain ⟨-, rfl⟩ | ⟨-, -, rfl⟩ | ⟨-, -, rfl⟩ := execDecode_cases h
  · right; simp [Result.code]
  · right; simp [Result.code]
  · left; simp

/-- A read of `MEAS` without a measurement is a fault (R43). -/
theorem hostRead_meas_fault {r : HostReg} {s : State} (hr : r.isMeas = true) (hm : s.mv = false) :
    hostRead r s = .error .measBeforeDecode := by
  simp [hostRead, exists_of_isMeas hr, hr, hm]

/-- Settles O16: `DECODE` by its two outcomes, every other command by its frame. -/
theorem mvMarksADecodedFrame : Obligations.MvMarksADecodedFrame := by
  refine ⟨reset_mv, reset_meas, fun i s t h => ?_, fun r s hr hm => hostRead_meas_fault hr hm⟩
  by_cases hi : i = .decode
  · subst hi
    obtain ⟨hres, hmv⟩ | ⟨hres, hmv, hmeas⟩ := execDecode_mv_meas h
    · exact ⟨iff_of_true hmv (.inr ⟨rfl, hres⟩), fun _ h0 => absurd (hmv.symm.trans h0) (by decide)⟩
    · rw [hmv, hmeas]
      exact ⟨(or_iff_left fun hd => hres hd.2).symm, id⟩
  · obtain ⟨hmv, hmeas⟩ := exec_keeps_mv_meas h hi
    simp [hi, hmv, hmeas]

/-! ## `PV` (R44) -/

/-- Without a validated payload there is nothing to hold. -/
theorem payloadOk_of_pv_false {s : State} (h : s.pv = false) : s.PayloadOk :=
  fun hp => absurd (h.symm.trans hp) (by decide)

/-- The meaning of `PV` depends on four registers only. -/
theorem payloadOk_congr {s t : State} (hpv : t.pv = s.pv) (hlen : t.pvlen = s.pvlen)
    (hcnt : t.rxcnt = s.rxcnt) (hrx : t.rx = s.rx) (h : s.PayloadOk) : t.PayloadOk := by
  simpa only [State.PayloadOk, State.head, buf_rx, hpv, hlen, hcnt, hrx] using h

theorem KeepsResponse.payloadOk {s t : State} (k : KeepsResponse s t) (h : s.PayloadOk) :
    t.PayloadOk :=
  payloadOk_congr k.pv k.pvlen k.rxcnt k.rx h

/-- `PARSE` either succeeds, and the payload is what was pushed and passed the checks, or clears `PV`
(R204, R44). -/
theorem execParse_payload {n : Byte} {s t : State} (h : execParse n s = .next t) :
    (t.result = 0 ∧ t.pv = true ∧ t.pvlen = n ∧ t.PayloadOk) ∨ (t.result ≠ 0 ∧ t.pv = false) := by
  obtain ⟨-, rfl⟩ | ⟨-, -, rfl⟩ | ⟨-, -, -, rfl⟩ | ⟨-, -, -, -, rfl⟩ | ⟨hcap, hcnt, hver, hmark, rfl⟩ :=
    execParse_cases h
  case inr.inr.inr.inr =>
    left
    refine ⟨by simp, by simp, by simp, fun _ => ⟨hcnt.symm, hcap, hver, hmark⟩⟩
  all_goals right; simp [Result.code]

/-- `CRC_APPEND rx` either ends in `BAD_LENGTH` and keeps the response, or clears `PV` (R184, R44). -/
theorem execCrcAppend_rx_payload {n : Byte} {s t : State} (h : execCrcAppend .rx n s = .next t) :
    (t.result = 5 ∧ KeepsResponse s t) ∨ (t.result ≠ 5 ∧ t.pv = false) := by
  obtain ⟨-, rfl⟩ | ⟨hbuf, -⟩ | ⟨-, -, -, rfl⟩ := execCrcAppend_cases h
  · exact .inl ⟨by simp [Result.code], keepsResponse_raise s _⟩
  · cases hbuf
  · right; simp

/-- `DECODE` reads the payload and keeps the four registers `PV` speaks of (R250). -/
theorem execDecode_keeps_payload {s t : State} (h : execDecode s = .next t) :
    t.pv = s.pv ∧ t.pvlen = s.pvlen ∧ t.rxcnt = s.rxcnt ∧ t.rx = s.rx := by
  obtain ⟨-, rfl⟩ | ⟨-, -, rfl⟩ | ⟨-, -, rfl⟩ := execDecode_cases h <;> simp

theorem execRxClear_pv {s t : State} (h : execRxClear s = .next t) : t.pv = false := by
  cases h; simp

theorem execRxPush_pv {b : Byte} {s t : State} (h : execRxPush b s = .next t) : t.pv = false := by
  cases h; simp

/-- Every command keeps the meaning of `PV`: it keeps the payload, clears `PV`, or validates anew. -/
theorem exec_payloadOk {i : Instr} {s t : State} (h : exec i s = .next t) (hs : s.PayloadOk) :
    t.PayloadOk := by
  cases i with
  | rxClear => exact payloadOk_of_pv_false (execRxClear_pv h)
  | rxPush b => exact payloadOk_of_pv_false (execRxPush_pv h)
  | parse n =>
    obtain ⟨-, -, -, hok⟩ | ⟨-, hpv⟩ := execParse_payload h
    · exact hok
    · exact payloadOk_of_pv_false hpv
  | decode =>
    obtain ⟨hpv, hlen, hcnt, hrx⟩ := execDecode_keeps_payload h
    exact payloadOk_congr hpv hlen hcnt hrx hs
  | crcAppend buf n =>
    cases buf with
    | tx => exact (exec_keepsResponse h rfl).payloadOk hs
    | rx =>
      obtain ⟨-, hk⟩ | ⟨-, hpv⟩ := execCrcAppend_rx_payload h
      · exact hk.payloadOk hs
      · exact payloadOk_of_pv_false hpv
  | _ => exact (exec_keepsResponse h rfl).payloadOk hs

/-- The two commands that require a validated payload end in `NOT_VALIDATED` without one (R44). -/
theorem exec_notValidated {i : Instr} {s t : State} (h : exec i s = .next t) (hpv : s.pv = false)
    (hi : i = .echoCheck ∨ i = .decode) : t.result = 7 := by
  have ht : exec i s = .next (s.raise .notValidated) := by
    obtain rfl | rfl := hi <;> exact if_pos (by simp [hpv])
  cases ht.symm.trans h
  exact raise_result s .notValidated

/-- Settles O17: the commands that work on the response by their outcomes, every other by its frame. -/
theorem pvMarksAValidatedPayload : Obligations.PvMarksAValidatedPayload := by
  refine ⟨payloadOk_of_pv_false reset_pv, fun i s t h =>
    ⟨?_, ?_, exec_notValidated h, exec_payloadOk h⟩⟩
  · cases i with
    | rxClear => simp [execRxClear_pv h]
    | rxPush b => simp [execRxPush_pv h]
    | parse n =>
      obtain ⟨hres, hpv, -⟩ | ⟨hres, hpv⟩ := execParse_payload h
      · exact iff_of_true hpv hres
      · exact iff_of_false (by simp [hpv]) hres
    | decode => simp [(execDecode_keeps_payload h).1]
    | crcAppend buf n =>
      cases buf with
      | tx => simp [(exec_keepsResponse h rfl).pv]
      | rx =>
        obtain ⟨hres, hk⟩ | ⟨hres, hpv⟩ := execCrcAppend_rx_payload h
        · simp [hres, hk.pv]
        · exact iff_of_false (by simp [hpv]) fun hd => hres hd.2
    | _ => simp [(exec_keepsResponse h rfl).pv]
  · rintro n rfl hres
    obtain ⟨-, -, hlen, -⟩ | ⟨hne, -⟩ := execParse_payload h
    · exact hlen
    · exact absurd hres hne

end Sys2Proof.Proofs
end

