-- ==== Sys2Proof/Proofs/Common.lean ====
section
/-! The family `40_common.md`: running a command word. Three shared facts carry it: every command answers a
next state (`exec_total`), a word that decodes belongs to a row of the opcode table (`wellFormed_of_decode`),
and no command depends on the result before it (`exec_setResult`). -/

namespace Sys2Proof.Proofs

open Sys2Proof.Machine

/-! ## Every command answers a next state (R150) -/

/-- A choice between two outcomes that both answer a next state answers one. -/
theorem ite_next {c : Prop} [Decidable c] {x y : Host.Outcome State Fault Refusal}
    (hx : ∃ t, x = .next t) (hy : ∃ t, y = .next t) : ∃ t, (if c then x else y) = .next t := by
  split
  · exact hx
  · exact hy

/-- Every outcome of a command, at the end of each of its checks, is a next state. -/
theorem exec_total (i : Instr) (s : State) : ∃ t, exec i s = .next t := by
  cases i with
  | nop | crcInit | crcFeed | buildReg | buildReset | rxClear | rxPush => exact ⟨_, rfl⟩
  | crcBuf | crcVerify | crcAppend => exact ite_next ⟨_, rfl⟩ ⟨_, rfl⟩
  | echoCheck => exact ite_next ⟨_, rfl⟩ (ite_next ⟨_, rfl⟩ (ite_next ⟨_, rfl⟩ ⟨_, rfl⟩))
  | decode => exact ite_next ⟨_, rfl⟩ (ite_next ⟨_, rfl⟩ ⟨_, rfl⟩)
  | parse =>
    exact ite_next ⟨_, rfl⟩ (ite_next ⟨_, rfl⟩ (ite_next ⟨_, rfl⟩ (ite_next ⟨_, rfl⟩ ⟨_, rfl⟩)))

theorem runWord_total (w : CmdWord) (s : State) : ∃ t, runWord w s = .next t := by
  obtain ⟨i, -, h⟩ | ⟨e, -, h⟩ := runWord_cases w s
  · rw [h]; exact exec_total i s
  · exact ⟨_, h⟩

/-- Settles O10: an outcome is one next state, so there is no second. -/
theorem everyWordGivesOneNextState : Obligations.EveryWordGivesOneNextState := by
  refine ⟨fun w s => ?_, exec_total⟩
  obtain ⟨t, ht⟩ := runWord_total w s
  exact ⟨t, ht, fun t' ht' => Host.Outcome.next.inj (ht'.symm.trans ht)⟩

/-! ## What a command that only records a result leaves unchanged (R152) -/

theorem keepsFlags_raise (s : State) (r : Result) : KeepsFlags s (s.raise r) :=
  ⟨raise_vok s r, raise_pv s r, raise_mv s r, raise_rxovf s r⟩

theorem keeps_raise (s : State) (r : Result) : Keeps (fun x => x = .status) s (s.raise r) := by
  refine ⟨fun x hx => ?_, raise_pending s r, raise_readData s r⟩
  cases x with
  | status => exact absurd rfl hx
  | _ => rfl

/-- Settles O26: `finish` records `OK`. -/
theorem nopRule : Obligations.NopRule :=
  ⟨by decide, fun s =>
    ⟨s.raise .ok, rfl, raise_result s .ok, keepsFlags_raise s .ok, keeps_raise s .ok⟩⟩

/-! ## A word that decodes is the encoding of its command (R101 to R108)

A word is rebuilt from its operation field and its operand fields, when the bits its format requires to be
zero are zero. -/

theorem encodeN_fields {w : CmdWord} {op : Byte} (hop : opField w = op)
    (h : w.extractLsb' 0 56 = 0) : encodeN op = w := by
  subst hop
  rw [encodeN, opField, show 0#56 = w.extractLsb' 0 56 from h.symm]
  simp only [BitVec.extractLsb'_append_extractLsb'_eq_extractLsb', extract_all]

theorem encodeB_fields {w : CmdWord} {op : Byte} (hop : opField w = op)
    (h : w.extractLsb' 8 48 = 0) : encodeB op (w.extractLsb' 0 8) = w := by
  subst hop
  rw [encodeB, opField, show 0#48 = w.extractLsb' 8 48 from h.symm]
  simp only [BitVec.extractLsb'_append_extractLsb'_eq_extractLsb', extract_all]

theorem encodeS_fields {w : CmdWord} {op : Byte} (hop : opField w = op)
    (h : w.extractLsb' 9 47 = 0) :
    encodeS op (bufOfBit (w.extractLsb' 8 1)) (w.extractLsb' 0 8) = w := by
  subst hop
  rw [encodeS, opField, show 0#47 = w.extractLsb' 9 47 from h.symm, bitOfBuf_bufOfBit]
  simp only [BitVec.extractLsb'_append_extractLsb'_eq_extractLsb', extract_all]

theorem encodeF_fields {w : CmdWord} {op : Byte} (hop : opField w = op)
    (h : w.extractLsb' 48 8 = 0) :
    encodeF op (w.extractLsb' 40 8) (w.extractLsb' 32 8) (w.extractLsb' 16 16)
      (w.extractLsb' 0 16) = w := by
  subst hop
  rw [encodeF, opField, show 0#8 = w.extractLsb' 48 8 from h.symm]
  simp only [BitVec.extractLsb'_append_extractLsb'_eq_extractLsb', extract_all]

theorem encodeA_fields {w : CmdWord} {op : Byte} (hop : opField w = op)
    (h : w.extractLsb' 48 8 = 0 ∧ w.extractLsb' 0 40 = 0) :
    encodeA op (w.extractLsb' 40 8) = w := by
  obtain ⟨hhigh, hlow⟩ := h
  subst hop
  rw [encodeA, opField, show 0#8 = w.extractLsb' 48 8 from hhigh.symm,
    show 0#40 = w.extractLsb' 0 40 from hlow.symm]
  simp only [BitVec.extractLsb'_append_extractLsb'_eq_extractLsb', extract_all]

/-- A format's check passed: the bits it requires to be zero are, and the command is the one it names. -/
theorem of_check {c : Prop} [Decidable c] {m : String} {i j : Instr}
    (h : (if c then Except.ok i else .error (DecodeError.reservedBits m)) = Except.ok j) : c ∧ i = j := by
  split at h
  · next hc => exact ⟨hc, Except.ok.inj h⟩
  · cases h

/-- The decoder drops no bit: each row of the opcode map is rebuilt by the fields of its format. -/
theorem encode_of_decode {w : CmdWord} {i : Instr} (h : decode w = .ok i) : encode i = w := by
  unfold decode at h
  split at h
  case h_1 hop | h_2 hop | h_9 hop | h_12 hop | h_13 hop =>
    obtain ⟨hz, rfl⟩ := of_check h
    exact encodeN_fields hop hz
  case h_3 hop | h_10 hop | h_11 hop =>
    obtain ⟨hz, rfl⟩ := of_check h
    exact encodeB_fields hop hz
  case h_4 hop | h_5 hop | h_6 hop =>
    obtain ⟨hz, rfl⟩ := of_check h
    exact encodeS_fields hop hz
  case h_7 hop =>
    obtain ⟨hz, rfl⟩ := of_check h
    exact encodeF_fields hop hz
  case h_8 hop =>
    obtain ⟨hz, rfl⟩ := of_check h
    exact encodeA_fields hop hz
  case h_14 => cases h

/-! ## An illegal word is one the decoder rejects (R109, R153) -/

/-- The word of every command lies in the row of its mnemonic. -/
theorem encode_fitsRow (i : Instr) : Laws.FitsRow.Statement i := by
  cases i with
  | nop => exact Laws.FitsRow.nop
  | crcInit => exact Laws.FitsRow.crcInit
  | crcFeed b => exact Laws.FitsRow.crcFeed b
  | crcBuf buf n => exact Laws.FitsRow.crcBuf buf n
  | crcVerify buf n => exact Laws.FitsRow.crcVerify buf n
  | crcAppend buf n => exact Laws.FitsRow.crcAppend buf n
  | buildReg addr func reg val => exact Laws.FitsRow.buildReg addr func reg val
  | buildReset addr => exact Laws.FitsRow.buildReset addr
  | rxClear => exact Laws.FitsRow.rxClear
  | rxPush b => exact Laws.FitsRow.rxPush b
  | parse n => exact Laws.FitsRow.parse n
  | echoCheck => exact Laws.FitsRow.echoCheck
  | decode => exact Laws.FitsRow.decode

theorem encode_wellFormed (i : Instr) : wordWellFormed (encode i) = true := by
  obtain ⟨r, hr, -, hfits⟩ := encode_fitsRow i
  exact List.any_eq_true.mpr ⟨r, hr, hfits⟩

theorem wellFormed_of_decode {w : CmdWord} {i : Instr} (h : decode w = .ok i) :
    wordWellFormed w = true :=
  encode_of_decode h ▸ encode_wellFormed i

/-- A word outside the opcode table never reaches a command. -/
theorem runWord_illegal {w : CmdWord} (hw : wordWellFormed w = false) (s : State) :
    runWord w s = .next (s.raise .badOpcode) := by
  obtain ⟨i, hi, -⟩ | ⟨e, -, h⟩ := runWord_cases w s
  · exact absurd (hw.symm.trans (wellFormed_of_decode hi)) (by decide)
  · exact h

/-- Settles O12: the decoder rejects the word, and the block only records `BAD_OPCODE`. -/
theorem illegalWordIsBadOpcode : Obligations.IllegalWordIsBadOpcode :=
  ⟨fun w s hw => ⟨s.raise .badOpcode, runWord_illegal hw s, raise_result s .badOpcode,
    keepsFlags_raise s .badOpcode, keeps_raise s .badOpcode⟩,
    by decide, by decide, encode_wellFormed .crcInit⟩

/-! ## The result before a command is lost (R155)

A command's own write to `STATUS.RESULT` replaces whatever stood there, and none of its other writes and
checks sees it: so each update lets a `setResult` before it through to the end, where `raise` drops it. -/

theorem statusWithResult_bit (st : BitVec 8) (r : BitVec 4) {j : Nat} (hj : j < 8) :
    (statusWithResult st r).getLsbD j = if j < 4 then r.getLsbD j else st.getLsbD j := by
  split
  · next h =>
    show (st.extractLsb' 4 4 ++ r : BitVec (4 + 4)).getLsbD j = _
    rw [BitVec.getLsbD_append, if_pos h]
  · next h => exact statusWithResult_flag st r j (Nat.not_lt.mp h) hj

/-- The second result replaces the first. -/
theorem statusWithResult_statusWithResult (st : BitVec 8) (r r' : BitVec 4) :
    statusWithResult (statusWithResult st r) r' = statusWithResult st r' := by
  apply BitVec.eq_of_getLsbD_eq
  intro j hj
  simp only [statusWithResult_bit _ _ hj]
  split <;> rfl

/-- A flag and the result are different bits. -/
theorem statusWithBit_statusWithResult (st : BitVec 8) (r : BitVec 4) {k : Nat} (b : Bool)
    (hk : 4 ≤ k) :
    statusWithBit (statusWithResult st r) k b = statusWithResult (statusWithBit st k b) r := by
  apply BitVec.eq_of_getLsbD_eq
  intro j hj
  simp only [statusWithBit_flag _ _ _ _ hj, statusWithResult_bit _ _ hj]
  by_cases h : j < 4
  · rw [if_neg (show j ≠ k by omega), if_pos h, if_pos h]
  · rw [if_neg h, if_neg h]

@[simp] theorem raise_setResult (s : State) (r : BitVec 4) (c : Result) :
    (s.setResult r).raise c = s.raise c :=
  congrArg (fun st => { s with status := st }) (statusWithResult_statusWithResult s.status r c.code)

@[simp] theorem finish_setResult (s : State) (r : BitVec 4) : (s.setResult r).finish = s.finish :=
  raise_setResult s r .ok

@[simp] theorem setVok_setResult (s : State) (r : BitVec 4) (b : Bool) :
    (s.setResult r).setVok b = (s.setVok b).setResult r :=
  congrArg (fun st => { s with status := st })
    (statusWithBit_statusWithResult s.status r b (by decide))

@[simp] theorem setRxovf_setResult (s : State) (r : BitVec 4) (b : Bool) :
    (s.setResult r).setRxovf b = (s.setRxovf b).setResult r :=
  congrArg (fun st => { s with status := st })
    (statusWithBit_statusWithResult s.status r b (by decide))

@[simp] theorem setMv_setResult (s : State) (r : BitVec 4) :
    (s.setResult r).setMv = s.setMv.setResult r :=
  congrArg (fun st => { s with status := st })
    (statusWithBit_statusWithResult s.status r true (by decide))

@[simp] theorem setPv_setResult (s : State) (r : BitVec 4) (n : Byte) :
    (s.setResult r).setPv n = (s.setPv n).setResult r :=
  congrArg (fun st => { s with status := st, pvlen := n })
    (statusWithBit_statusWithResult s.status r true (by decide))

@[simp] theorem clearPv_setResult (s : State) (r : BitVec 4) :
    (s.setResult r).clearPv = s.clearPv.setResult r :=
  congrArg (fun st => { s with status := st, pvlen := 0 })
    (statusWithBit_statusWithResult s.status r false (by decide))

@[simp] theorem setCrc_setResult (s : State) (r : BitVec 4) (c : Half) :
    (s.setResult r).setCrc c = (s.setCrc c).setResult r := rfl

@[simp] theorem setDeverr_setResult (s : State) (r : BitVec 4) (v : Half) :
    (s.setResult r).setDeverr v = (s.setDeverr v).setResult r := rfl

@[simp] theorem setMeas_setResult (s : State) (r : BitVec 4) (m : Meas) :
    (s.setResult r).setMeas m = (s.setMeas m).setResult r := rfl

@[simp] theorem buildTx_setResult (s : State) (r : BitVec 4) (l : List Byte) (n : TxLen) :
    (s.setResult r).buildTx l n = (s.buildTx l n).setResult r := rfl

@[simp] theorem emptyRx_setResult (s : State) (r : BitVec 4) :
    (s.setResult r).emptyRx = s.emptyRx.setResult r := rfl

@[simp] theorem fill_setResult (s : State) (r : BitVec 4) (b : Buf) :
    (s.setResult r).fill b = s.fill b := by cases b <;> rfl

@[simp] theorem head_setResult (s : State) (r : BitVec 4) (b : Buf) (n : Nat) :
    (s.setResult r).head b n = s.head b n := by cases b <;> rfl

@[simp] theorem appendTrailer_setResult (s : State) (r : BitVec 4) (b : Buf) (n : Nat) :
    (s.setResult r).appendTrailer b n = (s.appendTrailer b n).setResult r := by cases b <;> rfl

@[simp] theorem pushRx_setResult (s : State) (r : BitVec 4) (b : Byte) :
    (s.setResult r).pushRx b = (s.pushRx b).setResult r := by
  unfold State.pushRx
  rw [setResult_rxcnt, setRxovf_setResult]
  split <;> rfl

/-- No command reads the result before it, and every command replaces it: its checks see the other registers
only, and each of its outcomes ends in `raise`. -/
theorem exec_setResult (i : Instr) (s : State) (r : BitVec 4) :
    exec i (s.setResult r) = exec i s := by
  cases i with
  | nop => simp [exec, execNop]
  | crcInit => simp [exec, execCrcInit]
  | crcFeed => simp [exec, execCrcFeed]
  | crcBuf => simp [exec, execCrcBuf]
  | crcVerify => simp [exec, execCrcVerify]
  | crcAppend buf => cases buf <;> simp [exec, execCrcAppend]
  | buildReg => simp [exec, execBuildReg]
  | buildReset => simp [exec, execBuildReset]
  | rxClear => simp [exec, execRxClear]
  | rxPush => simp [exec, execRxPush]
  | parse => simp [exec, execParse]
  | echoCheck => simp [exec, execEchoCheck]
  | decode => simp [exec, execDecode]

/-- Settles O13: a legal word runs its command, an illegal one writes `BAD_OPCODE` over the last result. -/
theorem resultIsNotSticky : Obligations.ResultIsNotSticky := by
  intro w s r
  unfold runWord
  cases decode w with
  | ok i => exact exec_setResult i s r
  | error e => exact congrArg Host.Outcome.next (raise_setResult s r .badOpcode)

end Sys2Proof.Proofs
end

