-- ==== Sys2Proof/Proofs/Checksum.lean ====
section
/-! The family `41_checksum.md`: the five commands of the Checksum Engine. Each next state is a chain of named
updates, so its frame is the frames of the updates put together (`keeps_trans`); a length check that fails
only records `BAD_LENGTH` (`badLength_rule`). -/

namespace Sys2Proof.Proofs

open Sys2Proof.Machine

/-! ## The words of formats B and S (R102, R103, R106) -/

theorem encodeB_word (op b : Byte) : encodeB op b = op.setWidth 64 <<< 56 ||| b.setWidth 64 := by
  apply BitVec.eq_of_getLsbD_eq
  intro i hi
  rw [encodeB_bit]
  by_cases hlow : i < 8
  · simp [hlow, show i < 56 by omega, hi]
  have hb : b.getLsbD i = false := BitVec.getLsbD_of_ge b i (by omega)
  by_cases hop : i < 56
  · simp [hlow, hop, hb]
  · simp [hlow, hop, hb, hi]

theorem encodeS_word (op : Byte) (buf : Buf) (n : Byte) :
    encodeS op buf n
      = op.setWidth 64 <<< 56 ||| (bitOfBuf buf).setWidth 64 <<< 8 ||| n.setWidth 64 := by
  apply BitVec.eq_of_getLsbD_eq
  intro i hi
  rw [encodeS_bit]
  by_cases hlow : i < 8
  · simp [hlow, show i < 56 by omega, hi]
  have hn : n.getLsbD i = false := BitVec.getLsbD_of_ge n i (by omega)
  by_cases hsel : i < 9
  · simp [hlow, hsel, show i < 56 by omega, hn, hi]
  have hbuf : (bitOfBuf buf).getLsbD (i - 8) = false := BitVec.getLsbD_of_ge _ _ (by omega)
  by_cases hop : i < 56
  · simp [hlow, hsel, hop, hn, hbuf]
  · simp [hlow, hsel, hop, hn, hbuf, hi]

/-! ## The frame of a chain of updates -/

theorem keeps_trans {v w : HostReg → Prop} {s t u : State} (hst : Keeps v s t) (htu : Keeps w t u) :
    Keeps (fun r => v r ∨ w r) s u := by
  obtain ⟨hreg, hpending, hread⟩ := hst
  obtain ⟨hreg', hpending', hread'⟩ := htu
  refine ⟨fun r hr => ?_, hpending'.trans hpending, hread'.trans hread⟩
  obtain ⟨hv, hw⟩ := not_or.mp hr
  exact (hreg' r hw).trans (hreg r hv)

theorem keeps_mono {v w : HostReg → Prop} {s t : State} (h : Keeps v s t) (hvw : ∀ r, v r → w r) :
    Keeps w s t :=
  ⟨fun r hr => h.1 r fun hv => hr (hvw r hv), h.2⟩

theorem keeps_setCrc (s : State) (c : Half) : Keeps (fun r => r = .crc) s (s.setCrc c) := by
  refine ⟨fun r hr => ?_, rfl, rfl⟩
  cases r with
  | crc => exact absurd rfl hr
  | _ => rfl

theorem keeps_setVok (s : State) (b : Bool) : Keeps (fun r => r = .status) s (s.setVok b) := by
  refine ⟨fun r hr => ?_, rfl, rfl⟩
  cases r with
  | status => exact absurd rfl hr
  | _ => rfl

theorem keeps_clearPv (s : State) : Keeps (fun r => r = .status ∨ r = .pvlen) s s.clearPv := by
  refine ⟨fun r hr => ?_, rfl, rfl⟩
  cases r with
  | status => exact absurd (.inl rfl) hr
  | pvlen => exact absurd (.inr rfl) hr
  | _ => rfl

/-! ## A failed length check (R152) -/

/-- A command that ends in `BAD_LENGTH` records it and changes nothing else. -/
theorem badLength_rule {x : Host.Outcome State Fault Refusal} {s : State}
    (h : x = .next (s.raise .badLength)) :
    ∃ t, x = .next t ∧ t.result = 5 ∧ KeepsFlags s t ∧ Keeps (fun r => r = .status) s t :=
  ⟨_, h, raise_result s .badLength, keepsFlags_raise s .badLength, keeps_raise s .badLength⟩

/-! ## The commands that write `CRC` (R180 to R182) -/

theorem keepsFlags_setCrc_finish (s : State) (c : Half) : KeepsFlags s (s.setCrc c).finish :=
  keepsFlags_raise (s.setCrc c) .ok

theorem keeps_setCrc_finish (s : State) (c : Half) :
    Keeps (fun r => r = .crc ∨ r = .status) s (s.setCrc c).finish :=
  keeps_trans (keeps_setCrc s c) (keeps_raise (s.setCrc c) .ok)

/-- The second `CRC_INIT` writes the `CRC` and the result that already stand there. -/
theorem execCrcInit_again (s : State) :
    exec .crcInit (s.setCrc 0xFFFF).finish = .next (s.setCrc 0xFFFF).finish :=
  exec_setResult .crcInit (s.setCrc 0xFFFF) 0

/-- Settles O27: one write of `CRC` before `finish`. -/
theorem crcInitRule : Obligations.CrcInitRule :=
  ⟨by decide, fun s => ⟨(s.setCrc 0xFFFF).finish, rfl, rfl, finish_result _,
    keepsFlags_setCrc_finish s _, keeps_setCrc_finish s _, execCrcInit_again s⟩⟩

/-- The example of R181, byte by byte. -/
theorem crcStep_example : crcStep (crcStep 0xFFFF 0xF8) 0x42 = 0x41C2 := by
  have hfirst : crcStep 0xFFFF 0xF8 = 0xC2BE := by decide
  rw [hfirst]
  decide

theorem crc16_example : crc16 [0xF8, 0x42] = 0x41C2 := by
  rw [crc16_eq, List.foldl_cons, List.foldl_cons, List.foldl_nil, crcStep_example]

/-- Settles O28: one write of `CRC` before `finish`; the rule's example values are computed. -/
theorem crcFeedRule : Obligations.CrcFeedRule :=
  ⟨fun b => encodeB_word 0x02 b,
    fun b s => ⟨(s.setCrc (crcStep s.crc b)).finish, rfl, rfl, finish_result _,
      keepsFlags_setCrc_finish s _, keeps_setCrc_finish s _⟩,
    crcStep_example, crc16_example, by decide⟩

/-- Settles O29: the length check, then one write of `CRC` before `finish`. -/
theorem crcBufRule : Obligations.CrcBufRule := by
  refine fun buf n => ⟨encodeS_word 0x03 buf n, fun s => ⟨fun hn => ?_, fun hn => ?_⟩⟩
  · exact badLength_rule (if_pos hn)
  · exact ⟨(s.setCrc (crc16 (s.head buf n.toNat))).finish, if_neg (Nat.not_lt.mpr hn),
      finish_result _, rfl, keepsFlags_setCrc_finish s _, keeps_setCrc_finish s _⟩

/-! ## `CRC_VERIFY` (R183) -/

theorem verify_of_length_le {l : List Byte} (h : l.length ≤ 2) : verify l = false := if_pos h

/-- The result that reports a comparison (R40, R183). -/
theorem comparison_code (ok : Bool) :
    (if ok then Result.ok else .badChecksum).code = if ok then 0 else 2 := by cases ok <;> rfl

/-- `CRC_VERIFY` within the fill: one comparison gives `VOK` and the result. -/
theorem execCrcVerify_within {buf : Buf} {n : Byte} {s : State} (hn : n.toNat ≤ s.fill buf) :
    exec (.crcVerify buf n) s
      = .next ((s.setVok (verify (s.head buf n.toNat))).raise
          (if verify (s.head buf n.toNat) then .ok else .badChecksum)) :=
  if_neg (Nat.not_lt.mpr hn)

theorem keeps_setVok_raise (s : State) (b : Bool) (c : Result) :
    Keeps (fun r => r = .status) s ((s.setVok b).raise c) :=
  keeps_mono (keeps_trans (keeps_setVok s b) (keeps_raise (s.setVok b) c)) fun _ => or_self_iff.mp

/-- Settles O30: the length check, then `VOK` and the result of the same comparison; a read of at most two
bytes never verifies. -/
theorem crcVerifyRule : Obligations.CrcVerifyRule := by
  refine fun buf n => ⟨encodeS_word 0x04 buf n, fun s => ⟨fun hn => ?_, fun hn => ?_⟩⟩
  · exact badLength_rule (if_pos hn)
  · have hshort : n.toNat ≤ 2 → verify (s.head buf n.toNat) = false := fun h =>
      verify_of_length_le ((memRead_length _ _ _).le.trans h)
    have hout := execCrcVerify_within hn
    rw [State.head] at hshort hout
    generalize verify (memRead (s.buf buf) 0 n.toNat) = ok at hshort hout ⊢
    exact ⟨_, hout, by simp, by simp [comparison_code], fun h => by simp [hshort h, Result.code],
      by simp, by simp, by simp, keeps_setVok_raise s ok _⟩

/-! ## `CRC_APPEND` (R184) -/

/-- The bytes of the selected buffer after `appendTrailer`: the trailer at `n - 2` and `n - 1`, every other
byte as before. -/
theorem readByte_appendTrailer (s : State) (buf : Buf) {n : Nat} (hn : 2 ≤ n) (i : Nat) :
    readByte ((s.appendTrailer buf n).buf buf) i
      = if i = n - 2 then loByte (crc16 (s.head buf (n - 2)))
        else if i = n - 1 then hiByte (crc16 (s.head buf (n - 2)))
        else readByte (s.buf buf) i := by
  rw [appendTrailer_buf, readByte_memWrite, trailer_length]
  by_cases hlo : i = n - 2
  · rw [if_pos (by omega), if_pos hlo, hlo, Nat.sub_self]; rfl
  by_cases hhi : i = n - 1
  · rw [if_pos (by omega), if_neg hlo, if_pos hhi, show i - (n - 2) = 1 by omega]; rfl
  · rw [if_neg (by omega), if_neg hlo, if_neg hhi]

theorem readByte_appendTrailer_low (s : State) (buf : Buf) {n : Nat} (hn : 2 ≤ n) :
    readByte ((s.appendTrailer buf n).buf buf) (n - 2) = loByte (crc16 (s.head buf (n - 2))) := by
  rw [readByte_appendTrailer s buf hn, if_pos rfl]

theorem readByte_appendTrailer_high (s : State) (buf : Buf) {n : Nat} (hn : 2 ≤ n) :
    readByte ((s.appendTrailer buf n).buf buf) (n - 1) = hiByte (crc16 (s.head buf (n - 2))) := by
  rw [readByte_appendTrailer s buf hn, if_neg (by omega), if_pos rfl]

/-- A byte that the host reads at neither place of the trailer is unchanged. -/
theorem readByte_appendTrailer_other (s : State) (buf : Buf) {n : Nat} (hn : 2 ≤ n) {i : Nat}
    (hi : ¬ (byteOf buf i = byteOf buf (n - 2) ∨ byteOf buf i = byteOf buf (n - 1))) :
    readByte ((s.appendTrailer buf n).buf buf) i = readByte (s.buf buf) i := by
  obtain ⟨hlo, hhi⟩ := not_or.mp hi
  rw [readByte_appendTrailer s buf hn, if_neg fun h => hlo (congrArg _ h),
    if_neg fun h => hhi (congrArg _ h)]

/-- The frame of `appendTrailer`: the two bytes of the trailer. -/
theorem keeps_appendTrailer (s : State) (buf : Buf) {n : Nat} (hn : 2 ≤ n) :
    Keeps (fun r => r = byteOf buf (n - 2) ∨ r = byteOf buf (n - 1)) s (s.appendTrailer buf n) := by
  refine ⟨fun r hr => ?_, appendTrailer_pending s buf n, appendTrailer_readData s buf n⟩
  cases buf with
  | tx =>
    cases r with
    | tx i => exact congrArg (BitVec.setWidth 32) (readByte_appendTrailer_other s .tx hn hr)
    | _ => rfl
  | rx =>
    cases r with
    | rx i => exact congrArg (BitVec.setWidth 32) (readByte_appendTrailer_other s .rx hn hr)
    | _ => rfl

/-- `CRC_APPEND` on `TX` within the fill writes the trailer. -/
theorem execCrcAppend_tx_within {n : Byte} {s : State} (hfill : n.toNat ≤ s.fill .tx)
    (hn : 2 ≤ n.toNat) :
    exec (.crcAppend .tx n) s = .next (s.appendTrailer .tx n.toNat).finish :=
  if_neg (by omega)

/-- `CRC_APPEND` on `RX` within the fill writes the trailer and loses the payload (R44). -/
theorem execCrcAppend_rx_within {n : Byte} {s : State} (hfill : n.toNat ≤ s.fill .rx)
    (hn : 2 ≤ n.toNat) :
    exec (.crcAppend .rx n) s = .next (s.appendTrailer .rx n.toNat).clearPv.finish :=
  if_neg (by omega)

/-- Settles O31: the length check, then the trailer; for `RX` the payload is cleared before `finish`. -/
theorem crcAppendRule : Obligations.CrcAppendRule := by
  refine fun buf n => ⟨encodeS_word 0x05 buf n, fun s => ⟨fun hn => ?_, fun hfill hn => ?_⟩⟩
  · exact badLength_rule (if_pos hn)
  have hlow := readByte_appendTrailer_low s buf hn
  have hhigh := readByte_appendTrailer_high s buf hn
  have hbytes := keeps_appendTrailer s buf hn
  cases buf with
  | tx =>
    have hkeeps := keeps_trans hbytes (keeps_raise _ .ok)
    exact ⟨_, execCrcAppend_tx_within hfill hn, finish_result _, hlow, hhigh, nofun, by simp, by simp,
      by simp, by simp, keeps_mono hkeeps fun r => by tauto⟩
  | rx =>
    have hkeeps := keeps_trans hbytes (keeps_trans (keeps_clearPv _) (keeps_raise _ .ok))
    exact ⟨_, execCrcAppend_rx_within hfill hn, finish_result _, hlow, hhigh, by simp, nofun, by simp,
      by simp, by simp, keeps_mono hkeeps fun r => by tauto⟩

end Sys2Proof.Proofs
end

