-- ==== Sys2Proof/Proofs/FrameCodec.lean ====
section
/-! The family `42_frame_codec.md`: the commands of the Frame Codec. As for the Checksum Engine, each next
state is a chain of named updates, and its frame is the frames of the updates put together. -/

namespace Sys2Proof.Proofs

open Sys2Proof.Machine

/-! ## The word of format F (R104) -/

theorem encodeF_word (op addr func : Byte) (reg val : Half) :
    encodeF op addr func reg val
      = op.setWidth 64 <<< 56 ||| addr.setWidth 64 <<< 40 ||| func.setWidth 64 <<< 32
        ||| reg.setWidth 64 <<< 16 ||| val.setWidth 64 := by
  apply BitVec.eq_of_getLsbD_eq
  intro i hi
  rw [encodeF_bit]
  by_cases hval : i < 16
  · simp [hval, show i < 32 by omega, show i < 40 by omega, show i < 56 by omega, hi]
  have hv : val.getLsbD i = false := BitVec.getLsbD_of_ge val i (by omega)
  by_cases hreg : i < 32
  · simp [hval, hreg, show i < 40 by omega, show i < 56 by omega, hv, hi]
  have hr : reg.getLsbD (i - 16) = false := BitVec.getLsbD_of_ge reg _ (by omega)
  by_cases hfunc : i < 40
  · simp [hval, hreg, hfunc, show i < 56 by omega, hv, hr, hi]
  have hf : func.getLsbD (i - 32) = false := BitVec.getLsbD_of_ge func _ (by omega)
  by_cases haddr : i < 48
  · simp [hval, hreg, hfunc, haddr, show i < 56 by omega, hv, hr, hf, hi]
  have ha : addr.getLsbD (i - 40) = false := BitVec.getLsbD_of_ge addr _ (by omega)
  by_cases hop : i < 56
  · simp [hval, hreg, hfunc, haddr, hop, hv, hr, hf, ha]
  · simp [hval, hreg, hfunc, haddr, hop, hv, hr, hf, ha, hi]

/-! ## `BUILD_REG` (R200) -/

/-- The first `n` bytes of `TX` after a frame of at least `n` bytes is built. -/
theorem memRead_buildTx (s : State) (l : List Byte) (len : TxLen) {n : Nat} (hn : n ≤ l.length) :
    memRead (s.buildTx l len).tx 0 n = l.take n := by
  apply List.ext_getElem
  · simp [hn]
  · intro i hi _
    have hlt : i < l.length := (hi.trans_eq (memRead_length _ _ _)).trans_le hn
    simp [memRead, readByte_memWrite, hlt]

/-- The frame of a build: `TXLEN` and the bytes that the frame covers. -/
theorem keeps_buildTx (s : State) (l : List Byte) (len : TxLen) :
    Keeps (fun r => r = .txlen ∨ ∃ k, k < l.length ∧ r = .tx k) s (s.buildTx l len) := by
  refine ⟨fun r hr => ?_, rfl, rfl⟩
  cases r with
  | txlen => exact absurd (.inl rfl) hr
  | tx i =>
    have hi : ¬ i < l.length := fun h => hr (.inr ⟨i, h, rfl⟩)
    exact congrArg (BitVec.setWidth 32) ((readByte_buildTx s l len i).trans (if_neg hi))
  | _ => rfl

/-- The 8-byte register frame: the header and its checksum (R112, R200). -/
def regFrame (addr func : Byte) (reg val : Half) : List Byte :=
  regHeader addr func reg val ++ trailer (crc16 (regHeader addr func reg val))

theorem regFrame_length (addr func : Byte) (reg val : Half) :
    (regFrame addr func reg val).length = 8 := rfl

theorem execBuildReg_eq (addr func : Byte) (reg val : Half) (s : State) :
    exec (.buildReg addr func reg val) s
      = .next (s.buildTx (regFrame addr func reg val) .eight).finish := rfl

/-- Settles O34: the header and its trailer fill the eight bytes of `TX`. -/
theorem buildRegRule : Obligations.BuildRegRule := by
  refine fun addr func reg val => ⟨encodeF_word 0x10 addr func reg val, fun s => ?_⟩
  have hheader : memRead (s.buildTx (regFrame addr func reg val) .eight).tx 0 6
      = regHeader addr func reg val :=
    memRead_buildTx s _ _ (by rw [regFrame_length]; decide)
  refine ⟨_, execBuildReg_eq addr func reg val s, hheader, ?_, ?_, rfl, finish_result _,
    keepsFlags_raise (s.buildTx _ _) .ok,
    keeps_mono (keeps_trans (keeps_buildTx s _ _) (keeps_raise _ .ok)) fun _ => Or.symm⟩
  · rw [finish_tx, hheader, readByte_buildTx]; rfl
  · rw [finish_tx, hheader, readByte_buildTx]; rfl

/-! ## `RX_CLEAR` (R202) -/

theorem keeps_setRxovf (s : State) (b : Bool) : Keeps (fun r => r = .status) s (s.setRxovf b) := by
  refine ⟨fun r hr => ?_, rfl, rfl⟩
  cases r with
  | status => exact absurd rfl hr
  | _ => rfl

theorem keeps_emptyRx (s : State) : Keeps (fun r => r = .rxcnt ∨ ∃ k, r = .rx k) s s.emptyRx := by
  refine ⟨fun r hr => ?_, rfl, rfl⟩
  cases r with
  | rxcnt => exact absurd (.inl rfl) hr
  | rx k => exact absurd (.inr ⟨k, rfl⟩) hr
  | _ => rfl

/-- Writing a bit of `STATUS` that already holds the value changes nothing. -/
theorem statusWithBit_self {st : BitVec 8} {k : Nat} {b : Bool} (h : st.getLsbD k = b) :
    statusWithBit st k b = st := by
  apply BitVec.eq_of_getLsbD_eq
  intro j hj
  rw [statusWithBit_flag st k j b hj]
  split
  · next hjk => rw [hjk, h]
  · rfl

theorem setRxovf_self {s : State} {b : Bool} (h : s.rxovf = b) : s.setRxovf b = s :=
  congrArg (fun st => { s with status := st }) (statusWithBit_self h)

theorem clearPv_self {s : State} (hpv : s.pv = false) (hlen : s.pvlen = 0) : s.clearPv = s := by
  rw [State.clearPv, statusWithBit_self hpv, ← hlen]

theorem emptyRx_self {s : State} (hrx : s.rx = []) (hcnt : s.rxcnt = 0) : s.emptyRx = s := by
  rw [State.emptyRx, ← hrx, ← hcnt]

/-- The response side of the block emptied: what `RX_CLEAR` does before `finish`. -/
def cleared (s : State) : State := (s.emptyRx.setRxovf false).clearPv

theorem execRxClear_eq (s : State) : exec .rxClear s = .next (cleared s).finish := rfl

theorem keeps_cleared (s : State) :
    Keeps (fun r => r = .status ∨ r = .rxcnt ∨ r = .pvlen ∨ ∃ k, r = .rx k) s (cleared s) :=
  keeps_mono (keeps_trans (keeps_emptyRx s) (keeps_trans (keeps_setRxovf _ _) (keeps_clearPv _)))
    fun r => by tauto

/-- There is nothing left for a second clear to change. -/
theorem cleared_cleared (s : State) : cleared (cleared s) = cleared s := by
  have hempty : (cleared s).emptyRx = cleared s := emptyRx_self rfl rfl
  have hovf : (cleared s).setRxovf false = cleared s := setRxovf_self (by simp [cleared])
  have hpv : (cleared s).clearPv = cleared s := clearPv_self (clearPv_pv _) rfl
  show ((cleared s).emptyRx.setRxovf false).clearPv = cleared s
  rw [hempty, hovf, hpv]

/-- The second `RX_CLEAR` writes the result that already stands there. -/
theorem execRxClear_again (s : State) :
    exec .rxClear (cleared s).finish = .next (cleared s).finish :=
  calc exec .rxClear (cleared s).finish
    _ = exec .rxClear (cleared s) := exec_setResult .rxClear (cleared s) 0
    _ = .next (cleared (cleared s)).finish := rfl
    _ = .next (cleared s).finish := by rw [cleared_cleared]

/-- Settles O37: three clears before `finish`. -/
theorem rxClearRule : Obligations.RxClearRule :=
  ⟨by decide, fun s => ⟨_, execRxClear_eq s, fun k => rfl, rfl, by simp [cleared], by simp [cleared],
    by simp [cleared], rfl, finish_result _, by simp [cleared], by simp [cleared],
    keeps_mono (keeps_trans (keeps_cleared s) (keeps_raise _ .ok)) fun r => by tauto,
    execRxClear_again s⟩⟩

/-! ## `RX_PUSH` (R203) -/

/-- The bytes of `RX` after a push: the pushed byte at the count while there is room, every other byte as
before. -/
theorem readByte_pushRx (s : State) (b : Byte) (i : Nat) :
    readByte (s.pushRx b).rx i
      = if i = s.rxcnt.toNat ∧ s.rxcnt.toNat < 25 then b else readByte s.rx i := by
  by_cases hroom : s.rxcnt.toNat < 25
  · obtain ⟨hrx, -⟩ := pushRx_room s b hroom
    rw [hrx, readByte_writeByte]
    simp [hroom]
  · obtain ⟨hrx, -⟩ := pushRx_full s b (Nat.not_lt.mp hroom)
    rw [hrx, if_neg fun h => hroom h.2]

/-- The frame of a push: `RXOVF`, the count and the byte at the count. -/
theorem keeps_pushRx (s : State) (b : Byte) :
    Keeps (fun r => r = .status ∨ r = .rxcnt ∨ r = .rx s.rxcnt.toNat) s (s.pushRx b) := by
  refine ⟨fun r hr => ?_, pushRx_pending s b, pushRx_readData s b⟩
  cases r with
  | status => exact absurd (.inl rfl) hr
  | rxcnt => exact absurd (.inr (.inl rfl)) hr
  | rx i =>
    have hi : i ≠ s.rxcnt.toNat := fun h => hr (.inr (.inr (congrArg _ h)))
    simp [State.reg, readByte_pushRx, hi]
  | _ => simp [State.reg]

theorem satIncr_toNat (c : Byte) : (satIncr c).toNat = min (c.toNat + 1) 255 := by
  rw [satIncr, BitVec.toNat_ofNat]
  omega

theorem execRxPush_eq (b : Byte) (s : State) :
    exec (.rxPush b) s = .next (s.pushRx b).clearPv.finish := rfl

/-- Settles O38: the push, by whether there is room, then `PV` is cleared before `finish`. -/
theorem rxPushRule : Obligations.RxPushRule := by
  refine fun b => ⟨encodeB_word 0x21 b, fun s => ⟨_, execRxPush_eq b s, ?_, fun hroom => ?_,
    fun hfull => ?_, by simp, rfl, finish_result _, by simp, by simp, ?_⟩⟩
  · simp [satIncr_toNat]
  · simp [readByte_pushRx, hroom]
  · simp [readByte_pushRx, Nat.not_lt.mpr hfull]
  · have hkeeps := keeps_trans (keeps_pushRx s b)
      (keeps_trans (keeps_clearPv _) (keeps_raise _ .ok))
    exact keeps_mono hkeeps fun r => by tauto

/-! ## `PARSE` (R204, R206) -/

theorem keeps_setDeverr (s : State) (v : Half) : Keeps (fun r => r = .deverr) s (s.setDeverr v) := by
  refine ⟨fun r hr => ?_, rfl, rfl⟩
  cases r with
  | deverr => exact absurd rfl hr
  | _ => rfl

theorem keeps_setPv (s : State) (n : Byte) :
    Keeps (fun r => r = .status ∨ r = .pvlen) s (s.setPv n) := by
  refine ⟨fun r hr => ?_, rfl, rfl⟩
  cases r with
  | status => exact absurd (.inl rfl) hr
  | pvlen => exact absurd (.inr rfl) hr
  | _ => rfl

/-- The error marker is bit 7 of the function code (R204). -/
theorem errMark_set_iff (b : Byte) : b &&& params.errMark ≠ 0 ↔ b.getLsbD 7 = true := by
  rw [params_errMark]; revert b; decide

/-- The table of R206. -/
theorem devkind_eq (c : Byte) :
    devkind c = if c = 0x01 then 1 else if c = 0x02 then 2 else if c = 0x03 then 3 else
      if c = 0x04 then 4 else 5 := by
  revert c; decide

/-- What every outcome of `PARSE` leaves unchanged. -/
structure ParseFrame (s t : State) : Prop where
  vok   : t.vok = s.vok
  mv    : t.mv = s.mv
  rxovf : t.rxovf = s.rxovf
  keeps : Keeps (fun r => r = .status ∨ r = .pvlen ∨ r = .deverr) s t

theorem parseFrame_fail (s : State) (v : Half) (r : Result) :
    ParseFrame s ((s.clearPv.setDeverr v).raise r) where
  vok := by simp
  mv := by simp
  rxovf := by simp
  keeps := keeps_mono (keeps_trans (keeps_clearPv s) (keeps_trans (keeps_setDeverr _ v)
    (keeps_raise _ r))) fun r => by tauto

theorem parseFrame_ok (s : State) (n : Byte) :
    ParseFrame s ((s.clearPv.setDeverr 0).setPv n).finish where
  vok := by simp
  mv := by simp
  rxovf := by simp
  keeps := keeps_mono (keeps_trans (keeps_clearPv s) (keeps_trans (keeps_setDeverr _ 0)
    (keeps_trans (keeps_setPv _ n) (keeps_raise _ .ok)))) fun r => by tauto

theorem execParse_frame {n : Byte} {s t : State} (h : execParse n s = .next t) : ParseFrame s t := by
  obtain ⟨-, rfl⟩ | ⟨-, -, rfl⟩ | ⟨-, -, -, rfl⟩ | ⟨-, -, -, -, rfl⟩ | ⟨-, -, -, -, rfl⟩ :=
    execParse_cases h
  · exact parseFrame_fail s 0 .badLength
  · exact parseFrame_fail s 0 .shortRead
  · exact parseFrame_fail s 0 .badChecksum
  · exact parseFrame_fail s _ .deviceError
  · exact parseFrame_ok s n

/-- Settles O40: each of the five outcomes is the branch of the rule whose guards it carries. -/
theorem parseRule : Obligations.ParseRule := by
  refine fun n => ⟨encodeB_word 0x22 n, fun s => ?_⟩
  obtain ⟨t, ht⟩ := exec_total (.parse n) s
  obtain ⟨hvok, hmv, hrxovf, hkeeps⟩ := execParse_frame ht
  refine ⟨t, ht, hvok, hmv, hrxovf, hkeeps, ?_⟩
  obtain ⟨hcap, rfl⟩ | ⟨hcap, hcnt, rfl⟩ | ⟨hcap, hcnt, hver, rfl⟩ | ⟨hcap, hcnt, hver, hmark, rfl⟩ |
    ⟨hcap, hcnt, hver, hmark, rfl⟩ := execParse_cases ht
  · rw [if_pos hcap]
    simp [Result.code]
  · rw [if_neg (Nat.not_lt.mpr hcap), if_pos hcnt]
    simp [Result.code]
  · rw [State.head, buf_rx] at hver
    rw [if_neg (Nat.not_lt.mpr hcap), if_neg (not_not.mpr hcnt), if_pos hver]
    simp [Result.code]
  · rw [State.head, buf_rx] at hver
    rw [if_neg (Nat.not_lt.mpr hcap), if_neg (not_not.mpr hcnt), if_neg (ne_false_of_eq_true hver),
      if_pos ((errMark_set_iff _).mp hmark)]
    simp [Result.code, devkind_eq]
  · rw [State.head, buf_rx] at hver
    rw [if_neg (Nat.not_lt.mpr hcap), if_neg (not_not.mpr hcnt), if_neg (ne_false_of_eq_true hver),
      if_neg fun h => (errMark_set_iff _).mpr h hmark]
    simp

/-! ## `ECHO_CHECK` (R205) -/

/-- Two reads from the start of a buffer are equal exactly when every byte is. -/
theorem memRead_eq_iff (m m' : Memory) (n : Nat) :
    memRead m 0 n = memRead m' 0 n ↔ ∀ k, k < n → readByte m k = readByte m' k := by
  simp [memRead]

/-- `ECHO_CHECK` only records a result. -/
theorem execEchoCheck_raise {s t : State} (h : execEchoCheck s = .next t) : ∃ r, t = s.raise r := by
  obtain ⟨-, ht⟩ | ⟨-, -, ht⟩ | ⟨-, -, -, ht⟩ | ⟨-, -, -, ht⟩ := execEchoCheck_cases h <;>
    exact ⟨_, ht⟩

/-- Settles O41: the four outcomes of `ECHO_CHECK` by their guards. -/
theorem echoCheckRule : Obligations.EchoCheckRule := by
  refine ⟨by decide, fun s => ?_⟩
  obtain ⟨t, ht⟩ := exec_total .echoCheck s
  obtain ⟨r, hr⟩ := execEchoCheck_raise ht
  refine ⟨t, ht, hr ▸ keepsFlags_raise s r, hr ▸ keeps_raise s r, ?_⟩
  obtain ⟨hpv, rfl⟩ | ⟨hpv, hlen, rfl⟩ | ⟨hpv, hlen, hbytes, rfl⟩ | ⟨hpv, hlen, hbytes, rfl⟩ :=
    execEchoCheck_cases ht
  · simp [hpv, Result.code]
  · simp [hpv, hlen, Result.code]
  · exact ⟨by simp [hpv], fun _ hne => absurd hlen hne, fun _ _ _ => raise_result s .echoMismatch,
      fun _ _ hall => absurd ((memRead_eq_iff _ _ _).mpr hall) hbytes⟩
  · exact ⟨by simp [hpv], fun _ hne => absurd hlen hne,
      fun _ _ ⟨k, hk, hne⟩ => absurd ((memRead_eq_iff _ _ _).mp hbytes k hk) hne,
      fun _ _ _ => finish_result s⟩

end Sys2Proof.Proofs
end

