-- ==== Sys2Proof/Proofs/RegisterDecoder.lean ====
section
/-! The family `43_register_decoder.md`: `DECODE`. Its next state on success is a chain of two named updates
before `finish`; the fields it writes are the compositions of R74 and R75, as shifts and ors. -/

namespace Sys2Proof.Proofs

open Sys2Proof.Machine

/-! ## The fields of the payload (R74, R75, R251) -/

theorem field16_eq_shift_or (m : Memory) (k : Nat) :
    field16 m k = (readByte m k).setWidth 16 <<< 8 ||| (readByte m (k + 1)).setWidth 16 := by
  apply BitVec.eq_of_getLsbD_eq
  intro i hi
  rw [field16, BitVec.getLsbD_append]
  by_cases hlow : i < 8
  · simp [hlow, hi]
  · simp [hlow, hi, BitVec.getLsbD_of_ge (readByte m (k + 1)) i (by omega)]

/-- The low register's bytes stand below the high register's: the bits of R75, byte by byte. -/
theorem field32_eq_shift_or (m : Memory) (k : Nat) :
    field32 m k
      = (readByte m k).setWidth 32 <<< 8 ||| (readByte m (k + 1)).setWidth 32
        ||| (readByte m (k + 2)).setWidth 32 <<< 24 ||| (readByte m (k + 3)).setWidth 32 <<< 16 := by
  apply BitVec.eq_of_getLsbD_eq
  intro i hi
  simp only [field32, BitVec.getLsbD_append, Nat.sub_sub]
  by_cases h0 : i < 8
  · simp [h0, show i < 16 by omega, show i < 24 by omega, hi]
  have hb1 : (readByte m (k + 1)).getLsbD i = false := BitVec.getLsbD_of_ge _ i (by omega)
  by_cases h1 : i < 16
  · simp [h0, h1, show i - 8 < 8 by omega, show i < 24 by omega, hb1, hi]
  have hb0 : (readByte m k).getLsbD (i - 8) = false := BitVec.getLsbD_of_ge _ _ (by omega)
  by_cases h2 : i < 24
  · simp [h0, h1, h2, show ¬ i - 8 < 8 by omega, show i - (8 + 8) < 8 by omega, hb1, hb0, hi]
  have hb3 : (readByte m (k + 3)).getLsbD (i - 16) = false := BitVec.getLsbD_of_ge _ _ (by omega)
  simp [h0, h1, h2, show ¬ i - 8 < 8 by omega, show ¬ i - (8 + 8) < 8 by omega, hb1, hb0, hb3, hi]

/-! ## `DECODE` (R250) -/

theorem keeps_setMeas (s : State) (m : Meas) : Keeps (fun r => r.isMeas = true) s (s.setMeas m) := by
  refine ⟨fun r hr => ?_, rfl, rfl⟩
  cases r with
  | measV | measI | measP | measE | measF | measPF | measAL => exact absurd rfl hr
  | _ => rfl

theorem keeps_setMv (s : State) : Keeps (fun r => r = .status) s s.setMv := by
  refine ⟨fun r hr => ?_, rfl, rfl⟩
  cases r with
  | status => exact absurd rfl hr
  | _ => rfl

theorem setMv_self {s : State} (h : s.mv = true) : s.setMv = s :=
  congrArg (fun st => { s with status := st }) (statusWithBit_self h)

/-- The payload taken into `MEAS`: what a successful `DECODE` does before `finish`. -/
def decoded (s : State) : State := (s.setMeas (decodePayload s.rx)).setMv

theorem keeps_decoded (s : State) :
    Keeps (fun r => r.isMeas = true ∨ r = .status) s (decoded s) :=
  keeps_trans (keeps_setMeas s _) (keeps_setMv _)

/-- The payload is still there, so taking it again changes nothing. -/
theorem decoded_decoded (s : State) : decoded (decoded s) = decoded s :=
  setMv_self (s := decoded s) (setMv_mv _)

theorem execDecode_notValidated {s : State} (hpv : s.pv = false) :
    exec .decode s = .next (s.raise .notValidated) :=
  if_pos (ne_true_of_eq_false hpv)

theorem execDecode_badLength {s : State} (hpv : s.pv = true) (hlen : s.pvlen.toNat ≠ 25) :
    exec .decode s = .next (s.raise .badLength) :=
  (if_neg (not_not.mpr hpv)).trans (if_pos hlen)

theorem execDecode_ok {s : State} (hpv : s.pv = true) (hlen : s.pvlen.toNat = 25) :
    exec .decode s = .next (decoded s).finish :=
  (if_neg (not_not.mpr hpv)).trans (if_neg (not_not.mpr hlen))

/-- The second `DECODE` writes the measurements and the result that already stand there. -/
theorem execDecode_again {s : State} (hpv : s.pv = true) (hlen : s.pvlen.toNat = 25) :
    exec .decode (decoded s).finish = .next (decoded s).finish :=
  calc exec .decode (decoded s).finish
    _ = exec .decode (decoded s) := exec_setResult .decode (decoded s) 0
    _ = .next (decoded (decoded s)).finish := execDecode_ok ((setMv_pv _).trans hpv) hlen
    _ = .next (decoded s).finish := by rw [decoded_decoded]

/-- Settles O42: the two checks, then the seven fields of the payload and `MV` before `finish`. -/
theorem decodeRule : Obligations.DecodeRule := by
  refine ⟨by decide, fun s => ⟨fun hpv => ?_, fun hpv hlen => ?_, fun hpv hlen => ?_⟩⟩
  · exact ⟨_, execDecode_notValidated hpv, raise_result s .notValidated,
      keepsFlags_raise s .notValidated, keeps_raise s .notValidated⟩
  · exact badLength_rule (execDecode_badLength hpv hlen)
  · have hkeeps := keeps_trans (keeps_decoded s) (keeps_raise (decoded s) .ok)
    exact ⟨_, execDecode_ok hpv hlen, finish_result _, by simp [decoded], by simp [decoded],
      by simp [decoded, hpv], by simp [decoded], keeps_mono hkeeps fun r => by tauto,
      field16_eq_shift_or s.rx 3, field32_eq_shift_or s.rx 5, field32_eq_shift_or s.rx 9,
      field32_eq_shift_or s.rx 13, field16_eq_shift_or s.rx 17, field16_eq_shift_or s.rx 19,
      field16_eq_shift_or s.rx 21, execDecode_again hpv hlen⟩

end Sys2Proof.Proofs
end

/-! The family of the whole machine: encoding, the port, the invariant, the laws of the checksum, and the
sequences of commands. -/

namespace Sys2Proof.Proofs

open Sys2Proof.Machine

/-! ## Encoding (R100 to R109) -/

/-- Each word's operation field selects its format, whose check passes and whose fields are the operands. -/
theorem decode_encode (i : Instr) : decode (encode i) = .ok i := by
  cases i with
  | nop | crcInit | rxClear | echoCheck | decode => simp [encode, decode, formatN]
  | crcFeed b | rxPush b | parse b => simp [encode, decode, formatB]
  | crcBuf buf n | crcVerify buf n | crcAppend buf n => simp [encode, decode, formatS]
  | buildReg addr func reg val => simp [encode, decode, formatF]
  | buildReset addr => simp [encode, decode, formatA]

/-- Settles O6, format by format. -/
theorem decodeOfEncodeIsTheCommand : Obligations.DecodeOfEncodeIsTheCommand := decode_encode

/-- Settles O7: each row of the opcode map rebuilds its word from the fields it reads. -/
theorem encodeOfDecodeIsTheWord : Obligations.EncodeOfDecodeIsTheWord := fun _ _ => encode_of_decode

/-- Settles O9: the decoder computes on each literal word. -/
theorem wordsOfTheTestVectorsDecode : Obligations.WordsOfTheTestVectorsDecode :=
  ⟨rfl, rfl, rfl, rfl, rfl, rfl, rfl, rfl, rfl, rfl, rfl, rfl, rfl, rfl, rfl⟩

/-- A field that a row's mask covers holds the pattern's bits in every word of the row. -/
theorem field_of_fits {r : OpRow} {w : CmdWord} (h : r.fits w = true) {k n : Nat}
    (hmask : r.mask.extractLsb' k n = BitVec.allOnes n) :
    w.extractLsb' k n = r.pattern.extractLsb' k n := by
  have hw : w &&& r.mask = r.pattern := beq_iff_eq.mp h
  rw [← hw, BitVec.extractLsb'_and, hmask, BitVec.and_allOnes]

theorem formatN_ok {m : String} {i : Instr} {w : CmdWord} (h : w.extractLsb' 0 56 = 0) :
    ∃ j, formatN m i w = .ok j := ⟨_, if_pos h⟩

theorem formatB_ok {m : String} {i : Byte → Instr} {w : CmdWord} (h : w.extractLsb' 8 48 = 0) :
    ∃ j, formatB m i w = .ok j := ⟨_, if_pos h⟩

theorem formatS_ok {m : String} {i : Buf → Byte → Instr} {w : CmdWord}
    (h : w.extractLsb' 9 47 = 0) : ∃ j, formatS m i w = .ok j := ⟨_, if_pos h⟩

theorem formatF_ok {m : String} {i : Byte → Byte → Half → Half → Instr} {w : CmdWord}
    (h : w.extractLsb' 48 8 = 0) : ∃ j, formatF m i w = .ok j := ⟨_, if_pos h⟩

theorem formatA_ok {m : String} {i : Byte → Instr} {w : CmdWord} (hhigh : w.extractLsb' 48 8 = 0)
    (hlow : w.extractLsb' 0 40 = 0) : ∃ j, formatA m i w = .ok j := ⟨_, if_pos ⟨hhigh, hlow⟩⟩

/-- Every row fixes the operation field. -/
theorem opField_of_fits {r : OpRow} (hr : r ∈ opTable) {w : CmdWord} (h : r.fits w = true) :
    opField w = r.pattern.extractLsb' 56 8 := by
  have hmask : ∀ r ∈ opTable, r.mask.extractLsb' 56 8 = BitVec.allOnes 8 := by decide
  exact field_of_fits h (hmask r hr)

/-- A word of any row decodes: the operation field selects the row's format, and the row's mask covers the
bits that the format requires to be zero. -/
theorem decode_of_fits {r : OpRow} (hr : r ∈ opTable) {w : CmdWord} (h : r.fits w = true) :
    ∃ i, decode w = .ok i := by
  rw [decode, opField_of_fits hr h]
  simp only [opTable, List.mem_cons, List.not_mem_nil, or_false] at hr
  rcases hr with rfl | rfl | rfl | rfl | rfl | rfl | rfl | rfl | rfl | rfl | rfl | rfl | rfl
  · exact formatN_ok (field_of_fits h (by decide))
  · exact formatN_ok (field_of_fits h (by decide))
  · exact formatB_ok (field_of_fits h (by decide))
  · exact formatS_ok (field_of_fits h (by decide))
  · exact formatS_ok (field_of_fits h (by decide))
  · exact formatS_ok (field_of_fits h (by decide))
  · exact formatF_ok (field_of_fits h (by decide))
  · exact formatA_ok (field_of_fits h (by decide)) (field_of_fits h (by decide))
  · exact formatN_ok (field_of_fits h (by decide))
  · exact formatB_ok (field_of_fits h (by decide))
  · exact formatB_ok (field_of_fits h (by decide))
  · exact formatN_ok (field_of_fits h (by decide))
  · exact formatN_ok (field_of_fits h (by decide))

/-- Settles O8: a row's word decodes, and a decoded word is the encoding of a command, which lies in its
row. -/
theorem legalWordsAreTheTableRows : Obligations.LegalWordsAreTheTableRows := by
  refine fun w => ⟨fun hw => ?_, fun ⟨_, hi⟩ => wellFormed_of_decode hi⟩
  obtain ⟨r, hr, hfits⟩ := List.any_eq_true.mp hw
  exact decode_of_fits hr hfits

/-! ## What a command can do (R152, R180 to R250)

Each next state is a chain of named updates that ends in `raise`. -/

/-- The bytes `BUILD_RESET` writes: the reset frame and its zero padding (R201). -/
def resetFrame (addr : Byte) : List Byte :=
  [addr, params.resetCmd] ++ trailer (crc16 [addr, params.resetCmd]) ++ [0x00, 0x00, 0x00, 0x00]

theorem resetFrame_length (addr : Byte) : (resetFrame addr).length = 8 := rfl

theorem execBuildReset_eq (addr : Byte) (s : State) :
    exec (.buildReset addr) s = .next (s.buildTx (resetFrame addr) .four).finish := rfl

/-- The next states of each command, with the guards that a later claim needs. Any command may do no more than
record a result. -/
inductive Effect (s : State) : Instr → State → Prop
  | report (i : Instr) (r : Result) : Effect s i (s.raise r)
  | crc (i : Instr) (c : Half) : Effect s i (s.setCrc c).finish
  | verify (buf : Buf) (n : Byte) (b : Bool) (r : Result) (hr : r.code ≠ 5) :
      Effect s (.crcVerify buf n) ((s.setVok b).raise r)
  | appendTx (n : Byte) (hfill : n.toNat ≤ s.fill .tx) (hn : 2 ≤ n.toNat) :
      Effect s (.crcAppend .tx n) (s.appendTrailer .tx n.toNat).finish
  | appendRx (n : Byte) (hfill : n.toNat ≤ s.fill .rx) (hn : 2 ≤ n.toNat) :
      Effect s (.crcAppend .rx n) (s.appendTrailer .rx n.toNat).clearPv.finish
  | buildReg (addr func : Byte) (reg val : Half) :
      Effect s (.buildReg addr func reg val) (s.buildTx (regFrame addr func reg val) .eight).finish
  | buildReset (addr : Byte) :
      Effect s (.buildReset addr) (s.buildTx (resetFrame addr) .four).finish
  | clear : Effect s .rxClear (cleared s).finish
  | push (b : Byte) : Effect s (.rxPush b) (s.pushRx b).clearPv.finish
  | parseFail (n : Byte) (v : Half) (r : Result) (hv : v = 0 ∨ ∃ c, v = deverrWord (devkind c) c) :
      Effect s (.parse n) ((s.clearPv.setDeverr v).raise r)
  | parseOk (n : Byte) : Effect s (.parse n) ((s.clearPv.setDeverr 0).setPv n).finish
  | decode : Effect s .decode (decoded s).finish

theorem exec_effect {i : Instr} {s t : State} (h : exec i s = .next t) : Effect s i t := by
  cases i with
  | nop => cases h; exact .report _ .ok
  | crcInit | crcFeed => cases h; exact .crc _ _
  | buildReg => cases h; exact .buildReg ..
  | buildReset => cases h; exact .buildReset _
  | rxClear => cases h; exact .clear
  | rxPush => cases h; exact .push _
  | crcBuf =>
    obtain ⟨-, rfl⟩ | ⟨-, rfl⟩ := execCrcBuf_cases h
    · exact .report _ _
    · exact .crc _ _
  | crcVerify =>
    obtain ⟨-, rfl⟩ | ⟨-, -, rfl⟩ | ⟨-, -, rfl⟩ := execCrcVerify_cases h
    · exact .report _ _
    · exact .verify _ _ _ _ (by decide)
    · exact .verify _ _ _ _ (by decide)
  | crcAppend =>
    obtain ⟨-, rfl⟩ | ⟨rfl, hfill, hn, rfl⟩ | ⟨rfl, hfill, hn, rfl⟩ := execCrcAppend_cases h
    · exact .report _ _
    · exact .appendTx _ hfill hn
    · exact .appendRx _ hfill hn
  | parse =>
    obtain ⟨-, rfl⟩ | ⟨-, -, rfl⟩ | ⟨-, -, -, rfl⟩ | ⟨-, -, -, -, rfl⟩ | ⟨-, -, -, -, rfl⟩ :=
      execParse_cases h
    · exact .parseFail _ 0 _ (.inl rfl)
    · exact .parseFail _ 0 _ (.inl rfl)
    · exact .parseFail _ 0 _ (.inl rfl)
    · exact .parseFail _ _ _ (.inr ⟨_, rfl⟩)
    · exact .parseOk _
  | echoCheck =>
    obtain ⟨r, rfl⟩ := execEchoCheck_raise h
    exact .report _ r
  | decode =>
    obtain ⟨-, rfl⟩ | ⟨-, -, rfl⟩ | ⟨-, -, rfl⟩ := execDecode_cases h
    · exact .report _ _
    · exact .report _ _
    · exact .decode

/-! ## The fields after `decoded` and `cleared` -/

@[simp] theorem decoded_tx (s : State) : (decoded s).tx = s.tx := rfl
@[simp] theorem decoded_txlen (s : State) : (decoded s).txlen = s.txlen := rfl
@[simp] theorem decoded_rx (s : State) : (decoded s).rx = s.rx := rfl
@[simp] theorem decoded_rxcnt (s : State) : (decoded s).rxcnt = s.rxcnt := rfl
@[simp] theorem decoded_pvlen (s : State) : (decoded s).pvlen = s.pvlen := rfl
@[simp] theorem decoded_deverr (s : State) : (decoded s).deverr = s.deverr := rfl
@[simp] theorem decoded_meas (s : State) : (decoded s).meas = decodePayload s.rx := rfl
@[simp] theorem decoded_vok (s : State) : (decoded s).vok = s.vok := setMv_vok _
@[simp] theorem decoded_pv (s : State) : (decoded s).pv = s.pv := setMv_pv _
@[simp] theorem decoded_mv (s : State) : (decoded s).mv = true := setMv_mv _
@[simp] theorem decoded_rxovf (s : State) : (decoded s).rxovf = s.rxovf := setMv_rxovf _

@[simp] theorem cleared_tx (s : State) : (cleared s).tx = s.tx := rfl
@[simp] theorem cleared_txlen (s : State) : (cleared s).txlen = s.txlen := rfl
@[simp] theorem cleared_rx (s : State) : (cleared s).rx = [] := rfl
@[simp] theorem cleared_rxcnt (s : State) : (cleared s).rxcnt = 0 := rfl
@[simp] theorem cleared_pvlen (s : State) : (cleared s).pvlen = 0 := rfl
@[simp] theorem cleared_deverr (s : State) : (cleared s).deverr = s.deverr := rfl
@[simp] theorem cleared_meas (s : State) : (cleared s).meas = s.meas := rfl
@[simp] theorem cleared_vok (s : State) : (cleared s).vok = s.vok := by simp [cleared]
@[simp] theorem cleared_pv (s : State) : (cleared s).pv = false := clearPv_pv _
@[simp] theorem cleared_mv (s : State) : (cleared s).mv = s.mv := by simp [cleared]
@[simp] theorem cleared_rxovf (s : State) : (cleared s).rxovf = false := by simp [cleared]

/-! ## The writers of each register (R35 to R48) -/

/-- Settles O15: for each register, the effects that write it; every other effect keeps it. -/
theorem eachRegisterHasItsWriters : Obligations.EachRegisterHasItsWriters := by
  intro i s t h
  have e := exec_effect h
  refine ⟨fun hne => ?_, fun ⟨k, hne⟩ => ?_, fun ⟨k, hne⟩ => ?_, fun hne => ?_, fun hne => ?_,
    fun hne => ?_, fun hne => ?_, fun hne => ?_⟩
  · cases e with
    | buildReg => exact .inl ⟨_, _, _, _, rfl⟩
    | buildReset => exact .inr ⟨_, rfl⟩
    | _ => simp at hne
  · cases e with
    | buildReg => exact .inl ⟨_, _, _, _, rfl⟩
    | buildReset => exact .inr (.inl ⟨_, rfl⟩)
    | appendTx n => exact .inr (.inr ⟨n, rfl⟩)
    | _ => simp at hne
  · cases e with
    | clear => exact .inl rfl
    | push b => exact .inr (.inl ⟨b, rfl⟩)
    | appendRx n => exact .inr (.inr ⟨n, rfl⟩)
    | _ => simp at hne
  · cases e with
    | clear => exact .inl rfl
    | push b => exact .inr ⟨b, rfl⟩
    | _ => simp at hne
  · cases e with
    | clear => exact .inl ⟨rfl, by simp⟩
    | push b =>
      refine .inr ⟨b, rfl, ?_⟩
      by_cases hroom : s.rxcnt.toNat < 25
      · simp [hroom] at hne
      · simp [hroom]
    | _ => simp at hne
  · cases e with
    | verify buf n b r hr => exact ⟨buf, n, rfl, by simpa using hr⟩
    | _ => simp at hne
  · cases e with
    | parseFail n => exact ⟨n, rfl⟩
    | parseOk n => exact ⟨n, rfl⟩
    | _ => simp at hne
  · cases e with
    | decode => exact ⟨rfl, finish_result _⟩
    | _ => simp at hne

/-! ## `PVLEN` (R44, R45) -/

/-- `PARSE` leaves the length of the payload it validated, or 0. -/
theorem execParse_pvlen {n : Byte} {s t : State} (h : exec (.parse n) s = .next t) :
    t.pvlen = if t.result = 0 then n else 0 := by
  obtain ⟨-, rfl⟩ | ⟨-, -, rfl⟩ | ⟨-, -, -, rfl⟩ | ⟨-, -, -, -, rfl⟩ | ⟨-, -, -, -, rfl⟩ :=
    execParse_cases h <;> simp [Result.code]

/-- `CRC_APPEND rx` keeps `PVLEN` when it ends in `BAD_LENGTH`, and clears it when it writes. -/
theorem execCrcAppend_rx_pvlen {n : Byte} {s t : State} (h : exec (.crcAppend .rx n) s = .next t) :
    t.pvlen = if t.result = 5 then s.pvlen else 0 := by
  obtain ⟨-, rfl⟩ | ⟨hbuf, -⟩ | ⟨-, -, -, rfl⟩ := execCrcAppend_cases h
  · simp [Result.code]
  · cases hbuf
  · simp

/-- Settles O18: the commands that work on the response by their outcomes, every other by its frame. -/
theorem pvlenFollowsPv : Obligations.PvlenFollowsPv := by
  intro i s t h
  cases i with
  | parse n => exact execParse_pvlen h
  | rxPush | rxClear => cases h; rfl
  | decode =>
    obtain ⟨-, hlen, -⟩ := execDecode_keeps_payload h
    exact hlen
  | crcAppend buf n =>
    cases buf with
    | tx => exact (exec_keepsResponse h rfl).pvlen
    | rx => exact execCrcAppend_rx_pvlen h
  | _ => exact (exec_keepsResponse h rfl).pvlen

/-! ## The invariant (R36, R37, R43 to R46, R49, R70, R71) -/

theorem code_le (r : Result) : r.code.toNat ≤ 7 := by cases r <;> decide

theorem txlen_toNat_le (l : TxLen) : l.toNat ≤ 8 := by cases l <;> decide

/-- A byte at or beyond the appended length is unchanged. -/
theorem readByte_appendTrailer_beyond (s : State) (buf : Buf) {n i : Nat} (hn : 2 ≤ n) (hi : n ≤ i) :
    readByte ((s.appendTrailer buf n).buf buf) i = readByte (s.buf buf) i := by
  rw [readByte_appendTrailer s buf hn, if_neg (by omega), if_neg (by omega)]

/-- A trailer inside the buffer keeps its form. -/
theorem appendTrailer_form (s : State) (buf : Buf) {n cap : Nat} (hn : 2 ≤ n) (hcap : n ≤ cap)
    (h : Memory.wf (s.buf buf) = true ∧ Memory.below cap (s.buf buf) = true) :
    Memory.wf ((s.appendTrailer buf n).buf buf) = true
      ∧ Memory.below cap ((s.appendTrailer buf n).buf buf) = true := by
  obtain ⟨hwf, hbelow⟩ := h
  rw [appendTrailer_buf]
  exact ⟨memWrite_wf _ _ hwf, memWrite_below _ _ (by rw [trailer_length]; omega) hbelow⟩

section
variable {i : Instr} {s t : State}

theorem Effect.result_le (e : Effect s i t) : t.result.toNat ≤ 7 := by
  cases e <;> simp [code_le]

theorem Effect.txForm (e : Effect s i t)
    (h : Memory.wf s.tx = true ∧ Memory.below params.txcap s.tx = true) :
    Memory.wf t.tx = true ∧ Memory.below params.txcap t.tx = true := by
  cases e with
  | buildReg | buildReset =>
    obtain ⟨hwf, hbelow⟩ := h
    exact ⟨memWrite_wf _ _ hwf, memWrite_below _ _ (le_refl 8) hbelow⟩
  | appendTx n hfill hn => exact appendTrailer_form s .tx hn (hfill.trans (txlen_toNat_le _)) h
  | _ => simpa using h

theorem Effect.rxForm (e : Effect s i t)
    (h : Memory.wf s.rx = true ∧ Memory.below params.rxcap s.rx = true) :
    Memory.wf t.rx = true ∧ Memory.below params.rxcap t.rx = true := by
  cases e with
  | clear => simp
  | appendRx n hfill hn => exact appendTrailer_form s .rx hn (hfill.trans (Nat.min_le_right _ _)) h
  | push b =>
    show Memory.wf (s.pushRx b).rx = true ∧ Memory.below params.rxcap (s.pushRx b).rx = true
    by_cases hroom : s.rxcnt.toNat < params.rxcap
    · obtain ⟨hrx, -⟩ := pushRx_room s b hroom
      obtain ⟨hwf, hbelow⟩ := h
      rw [hrx]
      exact ⟨writeByte_wf _ _ hwf, writeByte_below _ _ hroom hbelow⟩
    · obtain ⟨hrx, -⟩ := pushRx_full s b (Nat.not_lt.mp hroom)
      rw [hrx]
      exact h
  | _ => simpa using h

/-- The padding of a reset frame is zero. -/
theorem resetFrame_rest (addr : Byte) {k : Nat} (h4 : 4 ≤ k) (h8 : k < 8) :
    (resetFrame addr).getD k 0 = 0 := by
  interval_cases k <;> rfl

theorem Effect.txRest (e : Effect s i t) (hform : Memory.below params.txcap t.tx = true)
    (h : ∀ k, s.txlen.toNat ≤ k → readByte s.tx k = 0) :
    ∀ k, t.txlen.toNat ≤ k → readByte t.tx k = 0 := by
  intro k hk
  by_cases h8 : 8 ≤ k
  · exact readByte_of_below hform h8
  cases e with
  | buildReg => exact absurd hk h8
  | buildReset addr =>
    rw [finish_tx, readByte_buildTx, resetFrame_length, if_pos (Nat.not_le.mp h8)]
    exact resetFrame_rest addr hk (Nat.not_le.mp h8)
  | appendTx n hfill hn =>
    exact (readByte_appendTrailer_beyond s .tx hn (hfill.trans (by simpa using hk))).trans
      (h k (by simpa using hk))
  | _ => simpa using h k (by simpa using hk)

theorem Effect.rxRest (e : Effect s i t) (h : ∀ k, s.fill .rx ≤ k → readByte s.rx k = 0) :
    ∀ k, t.fill .rx ≤ k → readByte t.rx k = 0 := by
  intro k hk
  cases e with
  | clear => rfl
  | appendRx n hfill hn =>
    have hk : s.fill .rx ≤ k := by simpa using hk
    exact (readByte_appendTrailer_beyond s .rx hn (hfill.trans hk)).trans (h k hk)
  | push b =>
    have hk : min (min (s.rxcnt.toNat + 1) 255) 25 ≤ k := by simpa [satIncr_toNat] using hk
    have hold : readByte s.rx k = 0 := h k (by rw [fill_rx, params_rxcap]; omega)
    rw [finish_rx, clearPv_rx, readByte_pushRx, if_neg (by omega), hold]
  | _ => exact h k (by simpa using hk)

theorem Effect.overflow (e : Effect s i t) (h : s.rxovf = true ↔ params.rxcap < s.rxcnt.toNat) :
    t.rxovf = true ↔ params.rxcap < t.rxcnt.toNat := by
  cases e with
  | clear => simp
  | push b =>
    simp only [finish_rxovf, clearPv_rxovf, pushRx_rxovf, finish_rxcnt, clearPv_rxcnt, pushRx_rxcnt,
      satIncr_toNat, params_rxcap] at h ⊢
    split
    · rw [h]; omega
    · simp only [true_iff]; omega
  | _ => simpa using h

/-- `DEVERR` is zero or a code with its own kind, and its reserved values are never held (R46, R47). -/
def DeverrOk (v : Half) : Prop :=
  v.extractLsb' 11 5 = 0 ∧ (v.extractLsb' 8 3).toNat ≤ 5
    ∧ (v = 0 ∨ v.extractLsb' 8 3 = devkind (v.extractLsb' 0 8))

theorem deverrOk_zero : DeverrOk 0 := ⟨by decide, by decide, .inl rfl⟩

theorem deverrOk_word (c : Byte) : DeverrOk (deverrWord (devkind c) c) := by
  simp [DeverrOk, (devkind_le c).2]

theorem Effect.deverrOk (e : Effect s i t) (h : DeverrOk s.deverr) : DeverrOk t.deverr := by
  cases e with
  | parseOk => exact deverrOk_zero
  | parseFail n v r hv =>
    obtain rfl | ⟨c, rfl⟩ := hv
    · exact deverrOk_zero
    · exact deverrOk_word c
  | _ => simpa using h

theorem Effect.noPayload (e : Effect s i t) (h : s.pv = false → s.pvlen = 0) :
    t.pv = false → t.pvlen = 0 := by
  cases e with
  | appendRx | clear | push | parseFail => exact fun _ => rfl
  | parseOk => simp
  | _ => simpa using h

theorem Effect.noMeas (e : Effect s i t) (h : s.mv = false → s.meas = Meas.none) :
    t.mv = false → t.meas = Meas.none := by
  cases e with
  | decode => simp
  | _ => simpa using h

end

/-- Every effect keeps the invariant; that the meaning of `PV` is kept is a premise, because it rests on the
checks of `PARSE`, which `Effect` does not record. -/
theorem Effect.inv {i : Instr} {s t : State} (e : Effect s i t) (hpayload : t.PayloadOk) (hs : s.Inv) :
    t.Inv := by
  have htx := e.txForm hs.txForm
  obtain ⟨hreserved, hkind, hdev⟩ := e.deverrOk ⟨hs.reserved, hs.kind, hs.devErr⟩
  exact {
    txForm := htx
    rxForm := e.rxForm hs.rxForm
    result := e.result_le
    reserved := hreserved
    kind := hkind
    devErr := hdev
    txRest := e.txRest htx.2 hs.txRest
    rxRest := e.rxRest hs.rxRest
    noPayload := e.noPayload hs.noPayload
    payload := hpayload
    noMeas := e.noMeas hs.noMeas
    overflow := e.overflow hs.overflow }

/-- The invariant does not speak of the host's side of the port. -/
theorem inv_port {s : State} (hs : s.Inv) (p : List HostEvent) (d : Word) :
    State.Inv { s with pending := p, readData := d } := by
  obtain ⟨h1, h2, h3, h4, h5, h6, h7, h8, h9, h10, h11, h12⟩ := hs
  exact ⟨h1, h2, h3, h4, h5, h6, h7, h8, h9, h10, h11, h12⟩

theorem inv_reset : State.reset.Inv where
  txForm := ⟨wf_nil, below_nil _⟩
  rxForm := ⟨wf_nil, below_nil _⟩
  result := Nat.zero_le _
  reserved := by decide
  kind := Nat.zero_le _
  devErr := .inl rfl
  txRest _ _ := rfl
  rxRest _ _ := rfl
  noPayload _ := rfl
  payload := payloadOk_of_pv_false reset_pv
  noMeas _ := rfl
  overflow := by decide

/-- Settles O21: the reset values, with any port. -/
theorem theInvariantHoldsAtReset : Obligations.TheInvariantHoldsAtReset :=
  fun events => inv_port inv_reset events State.reset.readData

theorem raise_inv {s : State} (hs : s.Inv) (r : Result) : (s.raise r).Inv :=
  (Effect.report .nop r).inv ((keepsResponse_raise s r).payloadOk hs.payload) hs

/-- Every word keeps the invariant: a legal one by its command, an illegal one as any recorded result. -/
theorem runWord_inv {w : CmdWord} {s t : State} (h : runWord w s = .next t) (hs : s.Inv) : t.Inv := by
  obtain ⟨i, -, hi⟩ | ⟨e, -, he⟩ := runWord_cases w s
  · have hexec := hi.symm.trans h
    exact (exec_effect hexec).inv (exec_payloadOk hexec hs.payload) hs
  · cases he.symm.trans h
    exact raise_inv hs .badOpcode

theorem serve_inv {e : HostEvent} {s t : State} (h : serve e s = .next t) (hs : s.Inv) : t.Inv := by
  cases e with
  | command w => exact runWord_inv h hs
  | reset =>
    cases h
    exact inv_port inv_reset s.pending s.readData
  | read r =>
    obtain ⟨-, hr⟩ | ⟨-, -, -, hr⟩ | ⟨-, -, hr⟩ := serveRead_cases r s
    · cases hr.symm.trans h
    · cases hr.symm.trans h
    · cases hr.symm.trans h
      exact inv_port hs s.pending (s.reg r)

/-- A step with an event pending serves it, with the event taken off the port. -/
theorem step_of_pending {s : State} {e : HostEvent} {rest : List HostEvent}
    (h : s.pending = e :: rest) : step s = serve e { s with pending := rest } := by
  rw [step, takeEvent, h]

theorem step_of_idle {s : State} (h : s.pending = []) : step s = .next s := by
  rw [step, takeEvent, h]

/-- Settles O20: an idle step keeps the state, and every other serves one event. -/
theorem everyStepKeepsTheInvariant : Obligations.EveryStepKeepsTheInvariant := by
  intro s t hs h
  cases hp : s.pending with
  | nil =>
    cases (step_of_idle hp).symm.trans h
    exact hs
  | cons e rest =>
    exact serve_inv ((step_of_pending hp).symm.trans h) (inv_port hs rest s.readData)

/-! ## The port (R33, R43, R70, R82, R330, R331) -/

/-- Settles O4: the idle step. -/
theorem idleBlockKeepsAllState : Obligations.IdleBlockKeepsAllState := fun _ => step_of_idle

/-- Settles O3: the word is taken off the port and decoded. -/
theorem stepRunsTheDecodedCommand : Obligations.StepRunsTheDecodedCommand := by
  intro s w i rest hp hw
  rw [step_of_pending hp, serve, runWord, hw]

/-- Settles O2: no register depends on what it held before. -/
theorem resetInputRestoresEveryRegister : Obligations.ResetInputRestoresEveryRegister := by
  intro s rest hp
  refine ⟨_, step_of_pending hp, fun r => ?_, rfl, rfl⟩
  cases r <;> rfl

/-- A step that takes a host read, by the outcomes of the read. -/
theorem step_read_cases {s : State} {r : HostReg} {rest : List HostEvent}
    (hp : s.pending = .read r :: rest) :
    (r.exists? = false ∧ step s = .fault .noSuchBufferByte) ∨
    (r.exists? = true ∧ r.isMeas = true ∧ s.mv = false ∧ step s = .fault .measBeforeDecode) ∨
    (r.exists? = true ∧ (r.isMeas = true → s.mv = true) ∧
      step s = .next { s with pending := rest, readData := s.reg r }) := by
  have hreg : State.reg { s with pending := rest } r = s.reg r := by cases r <;> rfl
  have hcases := serveRead_cases r { s with pending := rest }
  rw [hreg] at hcases
  rw [step_of_pending hp]
  exact hcases

/-- Settles O11: a command word and the reset input always answer a next state. -/
theorem stepStopsOnlyOnABadHostRead : Obligations.StepStopsOnlyOnABadHostRead := by
  intro s
  cases hp : s.pending with
  | nil => exact .inl ⟨s, step_of_idle hp⟩
  | cons e rest =>
    cases e with
    | command w =>
      obtain ⟨t, ht⟩ := runWord_total w { s with pending := rest }
      exact .inl ⟨t, (step_of_pending hp).trans ht⟩
    | reset => exact .inl ⟨_, step_of_pending hp⟩
    | read r =>
      obtain ⟨hr, hs⟩ | ⟨-, hr, hmv, hs⟩ | ⟨-, -, hs⟩ := step_read_cases hp
      · exact .inr ⟨r, rest, rfl, .inl ⟨hr, hs⟩⟩
      · exact .inr ⟨r, rest, rfl, .inr ⟨hr, hmv, hs⟩⟩
      · exact .inl ⟨_, hs⟩

/-- Settles O45: of the outcomes of a read, the two faults are excluded. -/
theorem hostReadReturnsAndKeeps : Obligations.HostReadReturnsAndKeeps := by
  intro s r rest hp hexists hmeas
  obtain ⟨hr, -⟩ | ⟨-, hr, hmv, -⟩ | ⟨-, -, hs⟩ := step_read_cases hp
  · exact absurd (hexists.symm.trans hr) (by decide)
  · exact absurd ((hmeas hr).symm.trans hmv) (by decide)
  · refine ⟨_, hs, rfl, fun r' => ?_, rfl⟩
    cases r' <;> rfl

/-- A read of no byte is the first outcome of a read. -/
theorem step_read_missing {s : State} {r : HostReg} {rest : List HostEvent}
    (hp : s.pending = .read r :: rest) (hr : r.exists? = false) :
    step s = .fault .noSuchBufferByte := by
  obtain ⟨-, hs⟩ | ⟨he, -⟩ | ⟨he, -⟩ := step_read_cases hp
  · exact hs
  · exact absurd (hr.symm.trans he) (by decide)
  · exact absurd (hr.symm.trans he) (by decide)

/-- Settles O46: each bad read excludes the other outcomes of a read. -/
theorem badHostReadFaults : Obligations.BadHostReadFaults := by
  intro s r rest hp
  refine ⟨fun hmeas hmv => ?_, fun k hk hr => ?_, fun k hk hr => ?_⟩
  · obtain ⟨he, -⟩ | ⟨-, -, -, hs⟩ | ⟨-, hok, -⟩ := step_read_cases hp
    · exact absurd ((exists_of_isMeas hmeas).symm.trans he) (by decide)
    · exact hs
    · exact absurd ((hok hmeas).symm.trans hmv) (by decide)
  · exact step_read_missing hp (hr ▸ decide_eq_false (Nat.not_lt.mpr hk))
  · exact step_read_missing hp (hr ▸ decide_eq_false (Nat.not_lt.mpr hk))

/-! ## No command touches the port (R85) -/

/-- The state with another host's side of the port. -/
def withPort (p : List HostEvent) (d : Word) (s : State) : State := { s with pending := p, readData := d }

/-- A push neither reads nor writes the port. -/
theorem pushRx_withPort (p : List HostEvent) (d : Word) (s : State) (b : Byte) :
    (withPort p d s).pushRx b = withPort p d (s.pushRx b) := by
  simp only [State.pushRx, apply_ite (withPort p d)]
  rfl

/-- Every command commutes with a change of the port: its guards do not mention the port, so both sides take
the same branch. -/
theorem exec_withPort (i : Instr) (p : List HostEvent) (d : Word) (s : State) :
    exec i (withPort p d s) = mapNext (withPort p d) (exec i s) := by
  cases i with
  | nop | crcInit | crcFeed | buildReg | buildReset | rxClear => rfl
  | rxPush b =>
    show Host.Outcome.next (((withPort p d s).pushRx b).clearPv).finish = _
    rw [pushRx_withPort]; rfl
  | crcBuf buf n => cases buf <;> simp only [exec, execCrcBuf, apply_ite (mapNext _)] <;> rfl
  | crcVerify buf n => cases buf <;> simp only [exec, execCrcVerify, apply_ite (mapNext _)] <;> rfl
  | crcAppend buf n => cases buf <;> simp only [exec, execCrcAppend, apply_ite (mapNext _)] <;> rfl
  | parse n => simp only [exec, execParse, apply_ite (mapNext _)]; rfl
  | echoCheck => simp only [exec, execEchoCheck, apply_ite (mapNext _)]; rfl
  | decode => simp only [exec, execDecode, apply_ite (mapNext _)]; rfl

/-- Settles O5. That a command keeps the port follows from `exec_withPort` with the port that already stands
there. -/
theorem noCommandTouchesThePort : Obligations.NoCommandTouchesThePort := by
  intro i s t p d h
  have comm (p : List HostEvent) (d : Word) : exec i (withPort p d s) = .next (withPort p d t) := by
    rw [exec_withPort, h]; rfl
  have same : t = withPort s.pending s.readData t :=
    Host.Outcome.next.inj (h.symm.trans (comm s.pending s.readData))
  have hpending : t.pending = (withPort s.pending s.readData t).pending := congrArg _ same
  have hread : t.readData = (withPort s.pending s.readData t).readData := congrArg _ same
  exact ⟨hpending, hread, comm p d⟩

/-! ## No command reads beyond the fill (R71) -/

/-- The state with other buffers. -/
def withBuffers (tx rx : Memory) (s : State) : State := { s with tx := tx, rx := rx }

@[simp] theorem fill_withBuffers (tx rx : Memory) (s : State) (buf : Buf) :
    (withBuffers tx rx s).fill buf = s.fill buf := by cases buf <;> rfl

theorem pushRx_withBuffers (tx rx : Memory) (s : State) (b : Byte) :
    (withBuffers tx rx s).pushRx b
      = withBuffers tx ((withBuffers tx rx s).pushRx b).rx (s.pushRx b) := by
  by_cases hroom : s.rxcnt.toNat < params.rxcap
  · have hpush : s.pushRx b = _ := if_pos hroom
    have hpush' : (withBuffers tx rx s).pushRx b = _ := if_pos hroom
    rw [hpush, hpush']
    rfl
  · have hpush : s.pushRx b = _ := if_neg hroom
    have hpush' : (withBuffers tx rx s).pushRx b = _ := if_neg hroom
    rw [hpush, hpush']
    rfl

/-- Two buffers agree on their first `n` bytes. -/
def AgreeBelow (n : Nat) (m m' : Memory) : Prop := ∀ k, k < n → readByte m k = readByte m' k

theorem AgreeBelow.memRead {n k : Nat} {m m' : Memory} (h : AgreeBelow n m m') (hk : k ≤ n) :
    memRead m 0 k = memRead m' 0 k :=
  (memRead_eq_iff m m' k).mpr fun j hj => h j (hj.trans_le hk)

/-- The same list written into both keeps them equal below `n`. -/
theorem AgreeBelow.memWrite {n : Nat} {m m' : Memory} (h : AgreeBelow n m m') (i : Nat)
    (l : List Byte) : AgreeBelow n (memWrite m i l) (memWrite m' i l) := by
  intro k hk
  rw [readByte_memWrite, readByte_memWrite, h k hk]

/-- The second outcome is the first, up to buffer bytes at or beyond the fill of `s`. -/
def SameBelowFill (s : State) (x y : Host.Outcome State Fault Refusal) : Prop :=
  ∀ t, x = .next t → ∃ tx rx, y = .next (withBuffers tx rx t)
    ∧ AgreeBelow (s.fill .tx) tx t.tx ∧ AgreeBelow (s.fill .rx) rx t.rx

theorem sameBelowFill_next {s t : State} {tx rx : Memory} (htx : AgreeBelow (s.fill .tx) tx t.tx)
    (hrx : AgreeBelow (s.fill .rx) rx t.rx) :
    SameBelowFill s (.next t) (.next (withBuffers tx rx t)) := by
  rintro _ ⟨⟩
  exact ⟨tx, rx, rfl, htx, hrx⟩

/-- Two runs that take the same branch. -/
theorem sameBelowFill_ite {s : State} {c : Prop} [Decidable c]
    {x x' y y' : Host.Outcome State Fault Refusal} (h : c → SameBelowFill s x y)
    (h' : ¬ c → SameBelowFill s x' y') :
    SameBelowFill s (if c then x else x') (if c then y else y') := by
  split
  · next hc => exact h hc
  · next hc => exact h' hc

/-- The payload's fields lie in its first 25 bytes (R251). -/
theorem decodePayload_congr {m m' : Memory} (h : AgreeBelow 25 m m') :
    decodePayload m = decodePayload m' := by
  simp [decodePayload, field16, field32, h _]

section
variable {s : State} {tx rx : Memory} (htx : AgreeBelow (s.fill .tx) tx s.tx)
  (hrx : AgreeBelow (s.fill .rx) rx s.rx)
include htx hrx

theorem head_withBuffers {buf : Buf} {n : Nat} (hn : n ≤ s.fill buf) :
    (withBuffers tx rx s).head buf n = s.head buf n := by
  cases buf with
  | tx => exact htx.memRead hn
  | rx => exact hrx.memRead hn

theorem sameBelowFill_raise (r : Result) :
    SameBelowFill s (.next (s.raise r)) (.next ((withBuffers tx rx s).raise r)) :=
  sameBelowFill_next htx hrx

theorem crcBuf_belowFill (buf : Buf) (n : Byte) :
    SameBelowFill s (exec (.crcBuf buf n) s) (exec (.crcBuf buf n) (withBuffers tx rx s)) := by
  simp only [exec, execCrcBuf, fill_withBuffers]
  refine sameBelowFill_ite (fun _ => sameBelowFill_raise htx hrx _) fun hn => ?_
  rw [head_withBuffers htx hrx (Nat.not_lt.mp hn)]
  exact sameBelowFill_next htx hrx

theorem crcVerify_belowFill (buf : Buf) (n : Byte) :
    SameBelowFill s (exec (.crcVerify buf n) s) (exec (.crcVerify buf n) (withBuffers tx rx s)) := by
  simp only [exec, execCrcVerify, fill_withBuffers]
  refine sameBelowFill_ite (fun _ => sameBelowFill_raise htx hrx _) fun hn => ?_
  rw [head_withBuffers htx hrx (Nat.not_lt.mp hn)]
  exact sameBelowFill_next htx hrx

theorem crcAppend_belowFill (buf : Buf) (n : Byte) :
    SameBelowFill s (exec (.crcAppend buf n) s) (exec (.crcAppend buf n) (withBuffers tx rx s)) := by
  simp only [exec, execCrcAppend, fill_withBuffers]
  refine sameBelowFill_ite (fun _ => sameBelowFill_raise htx hrx _) fun hn => ?_
  have hbody : (withBuffers tx rx s).head buf (n.toNat - 2) = s.head buf (n.toNat - 2) :=
    head_withBuffers htx hrx (by omega)
  rw [State.appendTrailer, State.appendTrailer, hbody]
  cases buf with
  | tx => exact sameBelowFill_next (htx.memWrite _ _) hrx
  | rx => exact sameBelowFill_next htx (hrx.memWrite _ _)

theorem rxPush_belowFill (b : Byte) :
    SameBelowFill s (exec (.rxPush b) s) (exec (.rxPush b) (withBuffers tx rx s)) := by
  rw [execRxPush_eq, execRxPush_eq, pushRx_withBuffers]
  have htx' : AgreeBelow (s.fill .tx) tx (s.pushRx b).clearPv.finish.tx := by simpa using htx
  refine sameBelowFill_next (rx := ((withBuffers tx rx s).pushRx b).rx) htx' fun k hk => ?_
  rw [finish_rx, clearPv_rx, readByte_pushRx, readByte_pushRx]
  simp only [withBuffers, hrx k hk]

/-- `PARSE` reads `RX[1]` and `RX[2]` only of a frame that verifies, which has at least three bytes. -/
theorem parse_belowFill (n : Byte) :
    SameBelowFill s (exec (.parse n) s) (exec (.parse n) (withBuffers tx rx s)) := by
  refine sameBelowFill_ite (fun _ => sameBelowFill_next htx hrx) fun hcap => ?_
  refine sameBelowFill_ite (fun _ => sameBelowFill_next htx hrx) fun hcnt => ?_
  have hfill : n.toNat ≤ s.fill .rx := by
    rw [fill_rx, not_not.mp hcnt]; omega
  rw [head_withBuffers htx hrx hfill]
  refine sameBelowFill_ite (fun _ => sameBelowFill_next htx hrx) fun hver => ?_
  have hlen : 3 ≤ s.fill .rx := by
    have := length_of_verify (not_not.mp hver)
    rw [State.head, memRead_length] at this
    omega
  rw [show readByte (withBuffers tx rx s).rx 1 = readByte s.rx 1 from hrx 1 (by omega),
    show readByte (withBuffers tx rx s).rx 2 = readByte s.rx 2 from hrx 2 (by omega)]
  exact sameBelowFill_ite (fun _ => sameBelowFill_next htx hrx) fun _ => sameBelowFill_next htx hrx

/-- `ECHO_CHECK` compares `TXLEN` bytes only when the payload is that long, and the payload lies below the
fill. -/
theorem echoCheck_belowFill (hs : s.PayloadOk) :
    SameBelowFill s (exec .echoCheck s) (exec .echoCheck (withBuffers tx rx s)) := by
  refine sameBelowFill_ite (fun _ => sameBelowFill_raise htx hrx _) fun hpv => ?_
  refine sameBelowFill_ite (fun _ => sameBelowFill_raise htx hrx _) fun hlen => ?_
  obtain ⟨hcnt, hcap, -⟩ := hs (not_not.mp hpv)
  have hfill : s.txlen.toNat ≤ s.fill .rx := by
    rw [fill_rx, ← hcnt, ← not_not.mp hlen]; omega
  rw [show (withBuffers tx rx s).txlen = s.txlen from rfl, head_withBuffers htx hrx hfill,
    head_withBuffers htx hrx (fill_tx s).ge]
  exact sameBelowFill_ite (fun _ => sameBelowFill_raise htx hrx _) fun _ =>
    sameBelowFill_raise htx hrx .ok

/-- `DECODE` reads a payload of 25 bytes, all below the fill. -/
theorem decode_belowFill (hs : s.PayloadOk) :
    SameBelowFill s (exec .decode s) (exec .decode (withBuffers tx rx s)) := by
  refine sameBelowFill_ite (fun _ => sameBelowFill_raise htx hrx _) fun hpv => ?_
  refine sameBelowFill_ite (fun _ => sameBelowFill_raise htx hrx _) fun hlen => ?_
  obtain ⟨hcnt, -, -⟩ := hs (not_not.mp hpv)
  have hlen : s.pvlen.toNat = 25 := not_not.mp hlen
  have hfill : s.fill .rx = 25 := by rw [fill_rx, ← hcnt, hlen]; rfl
  rw [show decodePayload (withBuffers tx rx s).rx = decodePayload s.rx from
    decodePayload_congr (hfill ▸ hrx)]
  exact sameBelowFill_next htx hrx

theorem exec_belowFill (i : Instr) (hs : s.PayloadOk) :
    SameBelowFill s (exec i s) (exec i (withBuffers tx rx s)) := by
  cases i with
  | nop | crcInit | crcFeed => exact sameBelowFill_next htx hrx
  | crcBuf buf n => exact crcBuf_belowFill htx hrx buf n
  | crcVerify buf n => exact crcVerify_belowFill htx hrx buf n
  | crcAppend buf n => exact crcAppend_belowFill htx hrx buf n
  | buildReg | buildReset => exact sameBelowFill_next (htx.memWrite 0 _) hrx
  | rxClear => exact sameBelowFill_next htx fun _ _ => rfl
  | rxPush b => exact rxPush_belowFill htx hrx b
  | parse n => exact parse_belowFill htx hrx n
  | echoCheck => exact echoCheck_belowFill htx hrx hs
  | decode => exact decode_belowFill htx hrx hs

end

/-- Settles O19: the run from the other buffers ends in the same state, up to bytes beyond the fill. -/
theorem noCommandReadsBeyondTheFill : Obligations.NoCommandReadsBeyondTheFill := by
  intro i s t tx rx hs htx hrx h
  obtain ⟨tx', rx', hexec, htx', hrx'⟩ := exec_belowFill htx hrx i hs t h
  refine ⟨_, hexec, fun r hr => ?_, htx', hrx'⟩
  cases r with
  | tx | rx => cases hr
  | _ => rfl

/-! ## The byte step of the checksum (R170, R172)

The shift is linear over exclusive or, and a value whose low bits are zero shifts out without the polynomial:
so a byte step is the plain shift of the accumulator with the step of its low byte added. -/

/-- What a shift adds when the bit shifted out is `b`. -/
def polyOf (b : Bool) : Half := if b then 0xA001 else 0

theorem polyOf_xor (a b : Bool) : polyOf (a ^^ b) = polyOf a ^^^ polyOf b := by
  revert a b; decide

theorem crcShift_eq_xor (c : Half) : crcShift c = c >>> 1 ^^^ polyOf (c.getLsbD 0) := by
  rw [crcShift_eq, polyOf]
  split
  · rfl
  · exact BitVec.xor_zero.symm

theorem crcShift_xor (x y : Half) : crcShift (x ^^^ y) = crcShift x ^^^ crcShift y := by
  simp only [crcShift_eq_xor, BitVec.getLsbD_xor, BitVec.ushiftRight_xor_distrib, polyOf_xor]
  ac_rfl

theorem crcShifts_xor (n : Nat) (x y : Half) :
    crcShifts n (x ^^^ y) = crcShifts n x ^^^ crcShifts n y := by
  induction n generalizing x y with
  | zero => rfl
  | succ n ih => simp only [crcShifts, crcShift_xor, ih]

/-- No polynomial enters while the bits shifted out are zero. -/
theorem crcShifts_of_low_zero {n : Nat} {x : Half} (h : ∀ i, i < n → x.getLsbD i = false) :
    crcShifts n x = x >>> n := by
  induction n generalizing x with
  | zero => exact (BitVec.ushiftRight_zero x).symm
  | succ n ih =>
    have hshift : crcShift x = x >>> 1 := by
      rw [crcShift_eq, h 0 (Nat.succ_pos n)]; rfl
    have hlow : ∀ i, i < n → (x >>> 1).getLsbD i = false := fun i hi => by
      rw [BitVec.getLsbD_ushiftRight, h (1 + i) (by omega)]
    rw [crcShifts, hshift, ih hlow, ← BitVec.shiftRight_add, Nat.add_comm]

theorem crcStep_zero (b : Byte) : crcStep 0 b = crcShifts 8 (b.setWidth 16) := by
  rw [crcStep_eq]
  exact congrArg _ BitVec.zero_xor

/-- A value is its high byte in place and its low byte. -/
theorem eq_high_xor_low (x : Half) : x = x >>> 8 <<< 8 ^^^ (x.setWidth 8).setWidth 16 := by
  apply BitVec.eq_of_getLsbD_eq
  intro i hi
  by_cases hlow : i < 8
  · simp [hlow, hi]
  · simp [hlow, hi, show 8 + (i - 8) = i by omega]

theorem high_shift_back (x : Half) : x >>> 8 <<< 8 >>> 8 = x >>> 8 := by
  apply BitVec.eq_of_getLsbD_eq
  intro i hi
  by_cases h : 8 + i < 16
  · simp [hi, h]
  · simp [BitVec.getLsbD_of_ge x (8 + i) (by omega)]

/-- Eight shifts move the high byte down, where no polynomial meets it, and step the low byte. -/
theorem crcShifts_eight (x : Half) : crcShifts 8 x = x >>> 8 ^^^ crcStep 0 (x.setWidth 8) := by
  have hlow : ∀ i, i < 8 → (x >>> 8 <<< 8).getLsbD i = false := fun i hi => by simp [hi]
  calc crcShifts 8 x
    _ = crcShifts 8 (x >>> 8 <<< 8 ^^^ (x.setWidth 8).setWidth 16) := congrArg _ (eq_high_xor_low x)
    _ = crcShifts 8 (x >>> 8 <<< 8) ^^^ crcShifts 8 ((x.setWidth 8).setWidth 16) := crcShifts_xor _ _ _
    _ = x >>> 8 ^^^ crcStep 0 (x.setWidth 8) := by
      rw [crcShifts_of_low_zero hlow, high_shift_back, crcStep_zero]

theorem setWidth_high (b : Byte) : b.setWidth 16 >>> 8 = 0 := by
  apply BitVec.eq_of_getLsbD_eq
  intro i hi
  simp

/-- The byte step as R172 computes it, with the step of the low byte in place of the table. -/
theorem crcStep_eq_shift_xor (c : Half) (b : Byte) :
    crcStep c b = c >>> 8 ^^^ crcStep 0 ((c ^^^ b.setWidth 16).setWidth 8) := by
  have hhigh : (c ^^^ b.setWidth 16) >>> 8 = c >>> 8 := by
    rw [BitVec.ushiftRight_xor_distrib, setWidth_high]
    exact BitVec.xor_zero
  rw [crcStep_eq, crcShifts_eight, hhigh]

/-- The 256 values that R172 prints, row by row and column by column. -/
theorem crcTable_row_column : ∀ row column : BitVec 4,
    crcTable (row ++ column) = crcStep 0 (row ++ column) := by
  decide

theorem crcTable_eq (i : Byte) : crcTable i = crcStep 0 i := by
  have hi : i.extractLsb' 4 4 ++ i.extractLsb' 0 4 = i := by
    simp only [BitVec.extractLsb'_append_extractLsb'_eq_extractLsb', extract_all]
  exact hi ▸ crcTable_row_column (i.extractLsb' 4 4) (i.extractLsb' 0 4)

theorem crcTableValues_length : crcTableValues.length = 256 := by
  simp only [crcTableValues, List.length_append]
  rfl

/-- Settles O22: the printed values are the steps of a single byte, and a byte step needs no other. -/
theorem tableFormIsTheBitForm : Obligations.TableFormIsTheBitForm := by
  refine ⟨crcTableValues_length, crcTable_eq, fun c b => ?_⟩
  rw [crcStepTable, crcTable_eq]
  exact (crcStep_eq_shift_xor c b).symm

/-! ## The laws of `verify` and `append` (R173 to R175) -/

/-- Stepping by the low byte of the accumulator itself moves the high byte down. -/
theorem crcStep_loByte (c : Half) : crcStep c (loByte c) = c >>> 8 := by
  rw [crcStep_eq]
  have hlow : ∀ i, i < 8 → (c ^^^ (loByte c).setWidth 16).getLsbD i = false := fun i hi => by
    simp [loByte, hi, show i < 16 by omega]
  rw [crcShifts_of_low_zero hlow, BitVec.ushiftRight_xor_distrib, setWidth_high]
  exact BitVec.xor_zero

theorem crcStep_hiByte (c : Half) : crcStep (c >>> 8) (hiByte c) = 0 := by
  have heq : (hiByte c).setWidth 16 = c >>> 8 := by
    apply BitVec.eq_of_getLsbD_eq
    intro i hi
    by_cases h : i < 8
    · simp [hiByte, h, hi]
    · simp [BitVec.getLsbD_of_ge (hiByte c) i (by omega), BitVec.getLsbD_of_ge c (8 + i) (by omega)]
  rw [crcStep_eq, heq, BitVec.xor_self]
  decide

/-- The residue: the trailer's two bytes take the accumulator to zero (R175 (d)). -/
theorem crc16_residue (m : List Byte) : crc16 (m ++ trailer (crc16 m)) = 0 := by
  rw [crc16_append, trailer, List.foldl_cons, List.foldl_cons, List.foldl_nil, crcStep_loByte,
    crcStep_hiByte]

theorem take_append_trailer (l : List Byte) (c : Half) :
    (l ++ trailer c).take ((l ++ trailer c).length - 2) = l := by
  rw [List.length_append, trailer_length, Nat.add_sub_cancel, List.take_left']
  rfl

/-- A body with its own checksum as trailer verifies (R175 (a)). -/
theorem verify_append_trailer {l : List Byte} (h : l ≠ []) :
    verify (l ++ trailer (crc16 l)) = true := by
  have hlen : 2 < (l ++ trailer (crc16 l)).length := by
    have := List.length_pos_iff.mpr h
    rw [List.length_append, trailer_length]; omega
  rw [verify_eq hlen, take_append_trailer, trailerOf_append_trailer, beq_self_eq_true]

theorem append_eq {l : List Byte} (h : 2 ≤ l.length) :
    append l = .ok (l.take (l.length - 2) ++ trailer (crc16 (l.take (l.length - 2)))) :=
  if_neg (Nat.not_lt.mpr h)

/-- A list verifies when its last two bytes are the checksum of its body (R173). -/
theorem verify_iff {l : List Byte} (h : 2 < l.length) :
    verify l = true ↔ l.take (l.length - 2) ++ trailer (crc16 (l.take (l.length - 2))) = l := by
  rw [verify_eq h, beq_iff_eq]
  constructor
  · intro hcrc
    rw [hcrc, take_append_trailerOf l h.le]
  · intro happ
    have htrailer := congrArg trailerOf happ
    rwa [trailerOf_append_trailer] at htrailer

/-- Settles O23: by the body and the trailer of a list. -/
theorem lawsOfVerifyAndAppend : Obligations.LawsOfVerifyAndAppend := by
  refine ⟨fun l h => ⟨_, append_eq h.le, ?_, verify_append_trailer ?_⟩,
    fun l h => verify_of_length_le h, fun l h => ?_, crc16_residue⟩
  · rw [List.length_append, List.length_take, trailer_length]; omega
  · exact List.ne_nil_of_length_pos (by rw [List.length_take]; omega)
  · rw [verify_iff h, append_eq h.le, Except.ok.injEq]

/-- Settles O24: both lists are their common body with its checksum. -/
theorem sameBodySameTrailer : Obligations.SameBodySameTrailer := by
  intro l m hl hm _ hbody
  rw [← (verify_iff (length_of_verify hl)).mp hl, ← (verify_iff (length_of_verify hm)).mp hm, hbody]

/-! ## Streaming (R176) -/

/-- One `CRC_FEED` after a command that ended in `OK`. -/
theorem execCrcFeed_finish (c : Half) (b : Byte) (s : State) :
    exec (.crcFeed b) (s.setCrc c).finish = .next (s.setCrc (crcStep c b)).finish :=
  exec_setResult (.crcFeed b) (s.setCrc c) 0

theorem execAll_crcFeed (bytes : List Byte) (c : Half) (s : State) :
    execAll (bytes.map .crcFeed) (s.setCrc c).finish
      = .next (s.setCrc (bytes.foldl crcStep c)).finish := by
  induction bytes generalizing c with
  | nil => rfl
  | cons b bs ih => rw [List.map_cons, execAll_cons (execCrcFeed_finish c b s), ih, List.foldl_cons]

/-- Settles O25: by induction over the feeds, from the initial value. -/
theorem streamingComputesCrc16 : Obligations.StreamingComputesCrc16 := by
  intro bytes s
  have hrun : execAll (expand (.crcBytes bytes)) s = .next (s.setCrc (crc16 bytes)).finish := by
    rw [crc16_eq]
    exact execAll_crcFeed bytes 0xFFFF s
  exact ⟨_, hrun, rfl, finish_result _, keepsFlags_setCrc_finish s _, keeps_setCrc_finish s _⟩

/-! ## Appended trailers and built frames (R184, R200, R201) -/

/-- The bytes up to the end of a list that was written: the bytes before it, and the list. -/
theorem memRead_memWrite (m : Memory) (i : Nat) (l : List Byte) :
    memRead (memWrite m i l) 0 (i + l.length) = memRead m 0 i ++ l := by
  apply List.ext_getElem
  · simp
  · intro k hk _
    rw [memRead_length] at hk
    by_cases hlow : k < i
    · simp [memRead, readByte_memWrite, hlow, show ¬ i ≤ k by omega]
    · have hi : i ≤ k := Nat.not_lt.mp hlow
      simp [memRead, readByte_memWrite, hk, hi, show k - i < l.length by omega]

/-- The first `n` bytes after `appendTrailer`: the bytes before the trailer, and their checksum. -/
theorem head_appendTrailer (s : State) (buf : Buf) {n : Nat} (hn : 2 ≤ n) :
    (s.appendTrailer buf n).head buf n
      = s.head buf (n - 2) ++ trailer (crc16 (s.head buf (n - 2))) := by
  have hwrite := memRead_memWrite (s.buf buf) (n - 2) (trailer (crc16 (s.head buf (n - 2))))
  rw [trailer_length, Nat.sub_add_cancel hn, ← appendTrailer_buf] at hwrite
  exact hwrite

/-- An appended trailer verifies (R175 (a)). -/
theorem verify_head_appendTrailer (s : State) (buf : Buf) {n : Nat} (hn : 3 ≤ n) :
    verify ((s.appendTrailer buf n).head buf n) = true := by
  rw [head_appendTrailer s buf (by omega)]
  refine verify_append_trailer (List.ne_nil_of_length_pos ?_)
  rw [State.head, memRead_length]; omega

/-- `CRC_VERIFY` of a length within the fill whose bytes verify ends in `OK` with `VOK` set. -/
theorem execCrcVerify_ok {buf : Buf} {n : Byte} {s : State} (hn : n.toNat ≤ s.fill buf)
    (hver : verify (s.head buf n.toNat) = true) :
    ∃ t, execAll [.crcVerify buf n] s = .next t ∧ t.result = 0 ∧ t.vok = true := by
  have hrun := execCrcVerify_within hn
  rw [hver] at hrun
  exact ⟨_, execAll_cons hrun, by simp [Result.code], by simp⟩

/-- Settles O32: the appended bytes verify, in either buffer. -/
theorem appendedTrailerVerifies : Obligations.AppendedTrailerVerifies := by
  intro buf n s hfill hn
  have hver := verify_head_appendTrailer s buf hn
  cases buf with
  | tx =>
    rw [execAll_cons (execCrcAppend_tx_within hfill (by omega))]
    exact execCrcVerify_ok hfill hver
  | rx =>
    rw [execAll_cons (execCrcAppend_rx_within hfill (by omega))]
    exact execCrcVerify_ok (by simpa using hfill) hver

/-- `BUILD_REG` leaves its frame in `TX`. -/
theorem head_buildReg (addr func : Byte) (reg val : Half) (s : State) :
    (s.buildTx (regFrame addr func reg val) .eight).finish.head .tx 8 = regFrame addr func reg val :=
  memRead_buildTx s (regFrame addr func reg val) .eight (regFrame_length addr func reg val).ge

/-- The four bytes of the reset frame without the padding. -/
def resetBody (addr : Byte) : List Byte :=
  [addr, params.resetCmd] ++ trailer (crc16 [addr, params.resetCmd])

theorem head_buildReset (addr : Byte) (s : State) :
    (s.buildTx (resetFrame addr) .four).finish.head .tx 4 = resetBody addr :=
  memRead_buildTx s (resetFrame addr) .four (by rw [resetFrame_length]; decide)

theorem verify_regFrame (addr func : Byte) (reg val : Half) :
    verify (regFrame addr func reg val) = true :=
  verify_append_trailer (List.cons_ne_nil _ _)

theorem verify_resetBody (addr : Byte) : verify (resetBody addr) = true :=
  verify_append_trailer (List.cons_ne_nil _ _)

/-- Settles O36: the built frames are bodies with their own checksums. -/
theorem builtFramesVerify : Obligations.BuiltFramesVerify := by
  refine ⟨fun addr func reg val s => ?_, fun addr s => ?_⟩
  · rw [execAll_cons (execBuildReg_eq addr func reg val s)]
    have hver := (head_buildReg addr func reg val s).symm ▸ verify_regFrame addr func reg val
    exact execCrcVerify_ok (le_refl 8) hver
  · rw [execAll_cons (execBuildReset_eq addr s)]
    have hver := (head_buildReset addr s).symm ▸ verify_resetBody addr
    exact execCrcVerify_ok (le_refl 4) hver

/-- A trailer over a frame that verifies rewrites the bytes that already stand there. -/
theorem readByte_appendTrailer_of_verify {s : State} {buf : Buf} {n : Nat}
    (hver : verify (s.head buf n) = true) (k : Nat) :
    readByte ((s.appendTrailer buf n).buf buf) k = readByte (s.buf buf) k := by
  have hlen : (s.head buf n).length = n := memRead_length _ _ _
  have hn : 2 < n := hlen ▸ length_of_verify hver
  by_cases hk : n ≤ k
  · exact readByte_appendTrailer_beyond s buf hn.le hk
  · have hhead : (s.appendTrailer buf n).head buf n = s.head buf n := by
      have hfix := (verify_iff (length_of_verify hver)).mp hver
      rwa [hlen, State.head, memRead_take _ _ _ _ (Nat.sub_le n 2), ← State.head,
        ← head_appendTrailer s buf hn.le] at hfix
    exact (memRead_eq_iff _ _ n).mp hhead k (Nat.not_le.mp hk)

/-- `CRC_APPEND` over the whole of a frame in `TX` that verifies keeps every byte. -/
theorem execCrcAppend_of_verify {n : Byte} {t : State} (hfill : n.toNat ≤ t.fill .tx)
    (hver : verify (t.head .tx n.toNat) = true) :
    ∃ u, exec (.crcAppend .tx n) t = .next u ∧ u.result = 0
      ∧ ∀ k, readByte u.tx k = readByte t.tx k := by
  have hn : 2 ≤ n.toNat := by
    have hlen := length_of_verify hver
    rw [State.head, memRead_length] at hlen
    omega
  exact ⟨_, execCrcAppend_tx_within hfill hn, finish_result _, readByte_appendTrailer_of_verify hver⟩

/-- Settles O33: both built frames verify. -/
theorem appendKeepsABuiltFrame : Obligations.AppendKeepsABuiltFrame := by
  refine ⟨fun addr func reg val s => ?_, fun addr s => ?_⟩
  · have hver := (head_buildReg addr func reg val s).symm ▸ verify_regFrame addr func reg val
    obtain ⟨u, hu⟩ := execCrcAppend_of_verify (n := 8) (le_refl 8) hver
    exact ⟨_, u, execBuildReg_eq addr func reg val s, hu⟩
  · have hver := (head_buildReset addr s).symm ▸ verify_resetBody addr
    obtain ⟨u, hu⟩ := execCrcAppend_of_verify (n := 4) (le_refl 4) hver
    exact ⟨_, u, execBuildReset_eq addr s, hu⟩

/-! ## `BUILD_RESET` (R201) -/

theorem encodeA_word (op addr : Byte) :
    encodeA op addr = op.setWidth 64 <<< 56 ||| addr.setWidth 64 <<< 40 := by
  apply BitVec.eq_of_getLsbD_eq
  intro i hi
  rw [encodeA_bit]
  by_cases hlow : i < 40
  · simp [hlow, show i < 56 by omega]
  by_cases haddr : i < 48
  · simp [hlow, haddr, show i < 56 by omega, hi]
  have ha : addr.getLsbD (i - 40) = false := BitVec.getLsbD_of_ge addr _ (by omega)
  by_cases hop : i < 56
  · simp [hlow, haddr, hop, ha]
  · simp [hlow, haddr, hop, ha, hi]

/-- Settles O35: the eight bytes of the frame and its padding; its first four are what `append` makes of the
placeholders. -/
theorem buildResetRule : Obligations.BuildResetRule := by
  refine fun addr => ⟨encodeA_word 0x11 addr, fun s => ?_⟩
  have hframe : memRead (s.buildTx (resetFrame addr) .four).tx 0 8 = resetFrame addr :=
    memRead_buildTx s _ _ (resetFrame_length addr).ge
  have happend : append [addr, 0x42, 0x00, 0x00]
      = .ok (memRead (s.buildTx (resetFrame addr) .four).tx 0 4) :=
    congrArg Except.ok (head_buildReset addr s).symm
  exact ⟨_, execBuildReset_eq addr s, hframe, happend, rfl, finish_result _,
    keepsFlags_raise (s.buildTx _ _) .ok,
    keeps_mono (keeps_trans (keeps_buildTx s _ _) (keeps_raise _ .ok)) fun _ => Or.symm⟩

/-! ## `RX_LOAD` (R37, R38, R42, R111, R202, R203) -/

/-- `t` is the state after `RX_LOAD` of the bytes from `s`. -/
structure Collected (bytes : List Byte) (s t : State) : Prop where
  rx     : ∀ k, readByte t.rx k = if k < 25 then bytes.getD k 0 else 0
  rxcnt  : t.rxcnt.toNat = min bytes.length 255
  rxovf  : t.rxovf = decide (25 < bytes.length)
  pv     : t.pv = false
  pvlen  : t.pvlen = 0
  result : t.result = 0
  vok    : t.vok = s.vok
  mv     : t.mv = s.mv
  meas   : t.meas = s.meas
  tx     : t.tx = s.tx
  txlen  : t.txlen = s.txlen
  keeps  : Keeps (fun r => r = .status ∨ r = .rxcnt ∨ r = .pvlen ∨ ∃ k, r = .rx k) s t

theorem collected_nil (s : State) : Collected [] s (cleared s).finish where
  rx k := by simp
  rxcnt := rfl
  rxovf := by simp
  pv := by simp
  pvlen := rfl
  result := finish_result _
  vok := by simp
  mv := by simp
  meas := rfl
  tx := rfl
  txlen := rfl
  keeps := keeps_mono (keeps_trans (keeps_cleared s) (keeps_raise _ .ok)) fun r => by tauto

theorem getD_concat (l : List Byte) (b : Byte) (k : Nat) :
    (l ++ [b]).getD k 0 = if k = l.length then b else l.getD k 0 := by
  rcases Nat.lt_trichotomy k l.length with h | h | h
  · rw [List.getD_append _ _ _ _ h, if_neg h.ne]
  · simp [h]
  · rw [if_neg h.ne', List.getD_eq_default, List.getD_eq_default]
    · exact h.le
    · rw [List.length_append]; exact h

/-- One more push is one more byte: it is stored while there is room, and else only counted. -/
theorem collected_push {bytes : List Byte} {s t : State} (h : Collected bytes s t) (b : Byte) :
    Collected (bytes ++ [b]) s (t.pushRx b).clearPv.finish where
  rx k := by
    rw [finish_rx, clearPv_rx, readByte_pushRx, h.rx, h.rxcnt, getD_concat]
    by_cases hk : k < 25
    · rw [if_pos hk, if_pos hk]
      exact if_congr (by omega) rfl rfl
    · rw [if_neg hk, if_neg hk, if_neg (by omega)]
  rxcnt := by
    rw [finish_rxcnt, clearPv_rxcnt, pushRx_rxcnt, satIncr_toNat, h.rxcnt, List.length_append,
      List.length_singleton]
    omega
  rxovf := by
    rw [finish_rxovf, clearPv_rxovf, pushRx_rxovf, h.rxovf, h.rxcnt, List.length_append,
      List.length_singleton, params_rxcap]
    by_cases hlen : bytes.length < 25
    · rw [if_pos (by omega)]
      exact decide_eq_decide.mpr (by omega)
    · rw [if_neg (by omega)]
      exact (decide_eq_true (by omega)).symm
  pv := by simp
  pvlen := rfl
  result := finish_result _
  vok := by simp [h.vok]
  mv := by simp [h.mv]
  meas := by simp [h.meas]
  tx := by simp [h.tx]
  txlen := by simp [h.txlen]
  keeps := keeps_mono (keeps_trans h.keeps (keeps_trans (keeps_pushRx t b)
    (keeps_trans (keeps_clearPv _) (keeps_raise _ .ok)))) fun r => by
      rintro (h | (h | h | h) | (h | h) | h)
      · exact h
      · exact .inl h
      · exact .inr (.inl h)
      · exact .inr (.inr (.inr ⟨_, h⟩))
      · exact .inl h
      · exact .inr (.inr (.inl h))
      · exact .inl h

/-- `RX_LOAD` of any list, by induction on the pushes from the last one. -/
theorem execAll_rxLoad (bytes : List Byte) (s : State) :
    ∃ t, execAll (expand (.rxLoad bytes)) s = .next t ∧ Collected bytes s t := by
  induction bytes using List.reverseRecOn with
  | nil => exact ⟨_, execAll_cons (execRxClear_eq s), collected_nil s⟩
  | append_singleton bs b ih =>
    obtain ⟨t, hrun, ht⟩ := ih
    have hsplit : expand (.rxLoad (bs ++ [b])) = expand (.rxLoad bs) ++ [.rxPush b] := by
      simp [expand]
    refine ⟨_, ?_, collected_push ht b⟩
    rw [hsplit, execAll_append hrun, execAll_cons (execRxPush_eq b t), execAll_nil]

/-- Settles O39: the fields of `Collected`. -/
theorem rxLoadCollectsTheBytes : Obligations.RxLoadCollectsTheBytes := by
  intro bytes s
  obtain ⟨t, hrun, ht⟩ := execAll_rxLoad bytes s
  exact ⟨t, hrun, ht.rx, ht.rxcnt, ht.rxovf, ht.pv, ht.pvlen, ht.result, ht.vok, ht.mv, ht.keeps⟩

/-! ## The host's sequences (R334, R335, R340, R344) -/

/-- A reply that `PARSE n` accepts (R204). -/
def Acceptable (n : Nat) (reply : List Byte) : Prop :=
  reply.length = n ∧ verify reply = true ∧ (reply.getD 1 0).getLsbD 7 = false

/-- The count tells the length of the reply while it is not saturated. -/
theorem Collected.rxcnt_eq_iff {reply : List Byte} {s t : State} (h : Collected reply s t) {n : Byte}
    (hn : n.toNat ≤ 25) : t.rxcnt = n ↔ reply.length = n.toNat := by
  rw [← BitVec.toNat_inj, h.rxcnt]; omega

/-- A reply that fits `RX` is what `RX` holds. -/
theorem Collected.head_eq {reply : List Byte} {s t : State} (h : Collected reply s t) {n : Nat}
    (hlen : reply.length = n) (hn : n ≤ 25) : t.head .rx n = reply := by
  apply List.ext_getElem
  · rw [State.head, memRead_length, hlen]
  · intro k hk hk'
    simp [State.head, memRead, h.rx, hk', show k < 25 by omega]

/-- After `RX_LOAD`, `PARSE n` validates exactly the acceptable replies. -/
theorem parse_pv_iff {reply : List Byte} {s t u : State} (h : Collected reply s t) {n : Byte}
    (hn : n.toNat ≤ 25) (hu : exec (.parse n) t = .next u) :
    u.pv = true ↔ Acceptable n.toNat reply := by
  have hmark : readByte t.rx 1 = reply.getD 1 0 := h.rx 1
  obtain ⟨hcap, -⟩ | ⟨-, hcnt, rfl⟩ | ⟨-, hcnt, hver, rfl⟩ | ⟨-, hcnt, hver, herr, rfl⟩ |
    ⟨-, hcnt, hver, herr, rfl⟩ := execParse_cases hu
  · exact absurd hcap (Nat.not_lt.mpr hn)
  · exact iff_of_false (by simp) fun ⟨hlen, _⟩ => hcnt ((h.rxcnt_eq_iff hn).mpr hlen)
  all_goals
    have hlen := (h.rxcnt_eq_iff hn).mp hcnt
    rw [h.head_eq hlen hn] at hver
  · exact iff_of_false (by simp) fun ⟨_, hok, _⟩ => absurd (hver.symm.trans hok) (by decide)
  · have hset : (reply.getD 1 0).getLsbD 7 = true := hmark ▸ (errMark_set_iff _).mp herr
    exact iff_of_false (by simp) fun ⟨_, _, hclear⟩ => absurd (hset.symm.trans hclear) (by decide)
  · have hclear : ¬ (reply.getD 1 0).getLsbD 7 = true := fun hset =>
      (errMark_set_iff _).mpr (hmark.symm ▸ hset) herr
    exact iff_of_true (by simp) ⟨hlen, hver, Bool.eq_false_iff.mpr hclear⟩

/-- `PARSE` keeps both buffers. -/
theorem execParse_keeps_buffers {n : Byte} {t u : State} (hu : exec (.parse n) t = .next u) :
    u.rx = t.rx ∧ u.tx = t.tx ∧ u.txlen = t.txlen := by
  obtain ⟨-, rfl⟩ | ⟨-, -, rfl⟩ | ⟨-, -, -, rfl⟩ | ⟨-, -, -, -, rfl⟩ | ⟨-, -, -, -, rfl⟩ :=
    execParse_cases hu <;> simp

/-- A `PARSE` that validates leaves its own length. -/
theorem execParse_pvlen_of_pv {n : Byte} {t u : State} (hu : exec (.parse n) t = .next u)
    (hpv : u.pv = true) : u.pvlen = n := by
  obtain ⟨-, -, hlen, -⟩ | ⟨-, hfail⟩ := execParse_payload hu
  · exact hlen
  · exact absurd (hfail.symm.trans hpv) (by decide)

/-- A request, its reply, `PARSE` and one more command: the last command runs from a state that holds the
request in `TX` and the parsed reply in `RX`. -/
theorem execAll_requestReply (addr func : Byte) (reg val : Half) (reply : List Byte) (n : Byte)
    (i : Instr) (s : State) :
    ∃ t u v, Collected reply (s.buildTx (regFrame addr func reg val) .eight).finish t
      ∧ exec (.parse n) t = .next u ∧ exec i u = .next v
      ∧ execAll ([.buildReg addr func reg val] ++ expand (.rxLoad reply) ++ [.parse n, i]) s
        = .next v := by
  obtain ⟨t, hload, ht⟩ := execAll_rxLoad reply (s.buildTx (regFrame addr func reg val) .eight).finish
  obtain ⟨u, hu⟩ := exec_total (.parse n) t
  obtain ⟨v, hv⟩ := exec_total i u
  have hrequest : execAll ([.buildReg addr func reg val] ++ expand (.rxLoad reply)) s = .next t :=
    (execAll_cons (execBuildReg_eq addr func reg val s)).trans hload
  refine ⟨t, u, v, ht, hu, hv, ?_⟩
  rw [execAll_append hrequest, execAll_cons hu, execAll_cons hv, execAll_nil]

/-- Settles O47: `DECODE` succeeds exactly when `PARSE` validated 25 bytes. -/
theorem measurementReadIsSound : Obligations.MeasurementReadIsSound := by
  intro addr reply s
  obtain ⟨t, u, v, ht, hu, hv, hrun⟩ := execAll_requestReply addr hostParams.fcReadInput
    hostParams.blockStart hostParams.blockCount reply 25 .decode s
  refine ⟨v, hrun, ?_⟩
  have hpv := parse_pv_iff ht (n := 25) (by decide) hu
  obtain ⟨hrx, -⟩ := execParse_keeps_buffers hu
  by_cases hok : u.pv = true
  · have hlen : u.pvlen.toNat = 25 := congrArg BitVec.toNat (execParse_pvlen_of_pv hu hok)
    cases (execDecode_ok hok hlen).symm.trans hv
    have hbyte : ∀ k, k < 25 → readByte u.rx k = reply.getD k 0 := fun k hk => by
      rw [hrx, ht.rx, if_pos hk]
    refine ⟨iff_of_true (finish_result _) (hpv.mp hok), fun hne => absurd (finish_result _) hne,
      fun _ => ⟨by simp, ?_⟩⟩
    simp [decodePayload, field16, field32, hbyte]
  · cases (execDecode_notValidated (Bool.eq_false_iff.mpr hok)).symm.trans hv
    have hres : (u.raise .notValidated).result ≠ 0 := by simp [Result.code]
    obtain ⟨hmv, hmeas⟩ := exec_keeps_mv_meas hu nofun
    refine ⟨iff_of_false hres fun h => hok (hpv.mpr h), fun _ => ⟨?_, ?_⟩, fun h => absurd h hres⟩
    · exact hmeas.trans ht.meas
    · rw [raise_mv, hmv, ht.mv, finish_mv, buildTx_mv]

theorem acceptable_regFrame (addr : Byte) (reg val : Half) :
    Acceptable 8 (regFrame addr 0x06 reg val) := by
  have hfunc : (regFrame addr 0x06 reg val).getD 1 0 = 0x06 := rfl
  refine ⟨regFrame_length addr 0x06 reg val, verify_regFrame addr 0x06 reg val, ?_⟩
  rw [hfunc]; decide

/-- Settles O48: a reply that is accepted is compared with the request, and the request is accepted. -/
theorem registerWriteSucceedsOnlyOnTheEcho : Obligations.RegisterWriteSucceedsOnlyOnTheEcho := by
  intro addr reg val reply s
  obtain ⟨t, u, v, ht, hu, hv, hrun⟩ := execAll_requestReply addr hostParams.fcWriteSingle
    reg val reply 8 .echoCheck s
  refine ⟨v, hrun, ?_⟩
  show v.result = 0 ↔ reply = regFrame addr 0x06 reg val
  have hpv := parse_pv_iff ht (n := 8) (by decide) hu
  obtain ⟨hrx, htx, htxlen⟩ := execParse_keeps_buffers hu
  have hrequest : u.head .tx 8 = regFrame addr 0x06 reg val := by
    rw [State.head, buf_tx, htx, ht.tx]
    exact head_buildReg addr 0x06 reg val s
  have hlen8 : u.txlen.toNat = 8 := by rw [htxlen, ht.txlen]; rfl
  obtain ⟨hno, rfl⟩ | ⟨hok, hlen, -⟩ | ⟨hok, -, hbytes, rfl⟩ | ⟨hok, -, hbytes, rfl⟩ :=
    execEchoCheck_cases hv
  · refine iff_of_false (by simp [Result.code]) fun hreply => ?_
    exact absurd (hno.symm.trans (hpv.mpr (hreply ▸ acceptable_regFrame addr reg val))) (by decide)
  · rw [execParse_pvlen_of_pv hu hok, hlen8] at hlen
    exact absurd rfl hlen
  all_goals
    have hreply : u.head .rx 8 = reply := by
      rw [State.head, buf_rx, hrx]
      exact ht.head_eq (hpv.mp hok).1 (by decide)
    rw [hlen8, hreply, hrequest] at hbytes
  · exact iff_of_false (by simp [Result.code]) hbytes
  · exact iff_of_true (finish_result _) hbytes

/-! ## The consumer's readings (R43, R252, R255) -/

/-- The quotient of R252, in the range the raw value's width gives. -/
theorem scaledValue_exact {s : State} {q : Quantity} {d b : Rat} (hmv : s.mv = true)
    (hdiv : (q.divisor : Rat) = d) (hd : 0 < d) (hraw : (s.raw q : Rat) ≤ b) :
    ∃ x, scaledValue q s = .ok x ∧ x * d = (s.raw q : Rat) ∧ 0 ≤ x ∧ x ≤ b / d := by
  subst hdiv
  exact ⟨_, if_pos hmv, div_mul_cancel₀ _ hd.ne', div_nonneg (Nat.cast_nonneg _) hd.le,
    div_le_div_of_nonneg_right hraw hd.le⟩

theorem half_le (v : Half) : (v.toNat : Rat) ≤ 65535 := by
  exact_mod_cast Nat.le_of_lt_succ v.isLt

theorem word_le (v : Word) : (v.toNat : Rat) ≤ 4294967295 := by
  exact_mod_cast Nat.le_of_lt_succ v.isLt

/-- Settles O43: each quantity by its divisor and the width of its register. -/
theorem scaledValuesAreExact : Obligations.ScaledValuesAreExact := by
  intro s hmv
  have halarm : hostRead .measAL s = .ok (s.meas.al.setWidth 32) := by
    simp [hostRead, HostReg.exists?, hmv, State.reg]
  exact ⟨halarm,
    scaledValue_exact (q := .voltage) hmv rfl (by norm_num) (half_le s.meas.v),
    scaledValue_exact (q := .current) hmv rfl (by norm_num) (word_le s.meas.i),
    scaledValue_exact (q := .power) hmv rfl (by norm_num) (word_le s.meas.p),
    scaledValue_exact (q := .energy) hmv rfl (by norm_num) (word_le s.meas.e),
    scaledValue_exact (q := .frequency) hmv rfl (by norm_num) (half_le s.meas.f),
    scaledValue_exact (q := .powerFactor) hmv rfl (by norm_num) (half_le s.meas.pf)⟩

/-- What the alarm register reads as while there is a measurement (R255). -/
theorem alarmState_cases {s : State} (hmv : s.mv = true) :
    (s.meas.al = 0x0000 ∧ alarmState s = .next .inactive) ∨
    (s.meas.al = 0xFFFF ∧ alarmState s = .next .active) ∨
    (s.meas.al ≠ 0x0000 ∧ s.meas.al ≠ 0xFFFF ∧ alarmState s = .refused .alarmUndefined) := by
  unfold alarmState
  rw [if_neg (not_not.mpr hmv)]
  by_cases hoff : s.meas.al = 0x0000
  · exact .inl ⟨hoff, if_pos hoff⟩
  by_cases hon : s.meas.al = 0xFFFF
  · exact .inr (.inl ⟨hon, (if_neg hoff).trans (if_pos hon)⟩)
  · exact .inr (.inr ⟨hoff, hon, (if_neg hoff).trans (if_neg hon)⟩)

/-- Settles O44: each of the three readings belongs to one set of values. -/
theorem alarmReadsAsTwoStatesOnly : Obligations.AlarmReadsAsTwoStatesOnly := by
  intro s hmv
  obtain ⟨hal, hread⟩ | ⟨hal, hread⟩ | ⟨hoff, hon, hread⟩ := alarmState_cases hmv
  · simp [hread, hal]
  · simp [hread, hal]
  · simpa [hread] using ⟨hoff, hon⟩

end Sys2Proof.Proofs
